-- ==== Sys2Proof/Word.lean ====
section
/-! DEFINITION. The Word of the core: 32 bits, the unit of every register, stack entry, program word
and output value (spec 00_scope R8, R9). -/

namespace Sys2Proof

/-- R9: a Word is a 32-bit vector, bit 31 its sign. `v.toNat` is the spec's `u(v)` and `v.toInt` its
`s(v)` (R10). -/
abbrev Word := BitVec 32

end Sys2Proof
end

