-- ==== Sys2Proof/Config.lean ====
section
/-! DEFINITION. The parameters of the core (spec 00_scope R8). PROGRAM and PROG_LEN are the Program
Store that the state carries as an input; the two parameters below are arguments of the step too, so
they stand in the state, and every statement is about every value of them. -/

namespace Sys2Proof

/-- R8, R51: PROG_LEN is at most 2^31 - 1. -/
def Config.maxProgLen : Nat := 2147483647

/-- R8, R28: STACK_DEPTH is `unbounded` (the document's value) or a finite number of entries. -/
inductive StackDepth where
  | unbounded
  | finite (n : Nat)
deriving DecidableEq, Repr

/-- R8: a finite STACK_DEPTH is a positive integer. -/
def StackDepth.wf : StackDepth → Bool
  | .unbounded => true
  | .finite n => decide (0 < n)

/-- R8: the parameters marked "argument" that are not the program itself. -/
structure Params where
  /-- STACK_DEPTH -/
  stackDepth : StackDepth
  /-- HAS_STOP_REQ: is the optional `stop_req` input present (R46)? -/
  hasStopReq : Bool
deriving DecidableEq, Repr

/-- R8: the document's stack is unbounded, and HAS_STOP_REQ is false by default. -/
def Params.default : Params := { stackDepth := .unbounded, hasStopReq := false }

end Sys2Proof
end

