-- ==== Sys2Proof/Syntax.lean ====
section
/-! DEFINITION. The syntax: the twelve instructions of the opcode map (spec 30_encoding R72). An operand is the whole Word at its position, taken as it stands (R73). -/

namespace Sys2Proof

/-- R72, R74: one constructor per row of the opcode table, each operand a whole Word. -/
inductive Instr where
  | movr (dst src : Word)
  | movv (dst literal : Word)
  | add (dst src : Word)
  | sub (dst src : Word)
  | push (src : Word)
  | pop (dst : Word)
  | jp (addr : Word)
  | jl (a b addr : Word)
  | call (addr : Word)
  | ret
  | print (src : Word)
  | halt
deriving DecidableEq, Repr

end Sys2Proof
end

