-- ==== Sys2Proof/WellFormed.lean ====
section
/-! DEFINITION. Well-formed instructions: every register operand names a register (spec 10_state R24).
A literal has no illegal value and an address operand is checked against PROG_LEN only when a transfer
selects it (30_encoding R73, R81, R87), so neither is checked here. An instruction that is not
well-formed is no gap: it decodes, and running it enters the fault OutOfRange/REG_INDEX (R80). -/

namespace Sys2Proof

/-- R24: a register operand w is valid when 0 <= s(w) <= 3. -/
abbrev RegIndexValid (w : Word) : Prop := 0 ≤ w.toInt ∧ w.toInt ≤ 3

/-- R74: every register operand of the instruction is valid. -/
def Instr.wf : Instr → Bool
  | .movr dst src => decide (RegIndexValid dst) && decide (RegIndexValid src)
  | .movv dst _ => decide (RegIndexValid dst)
  | .add dst src => decide (RegIndexValid dst) && decide (RegIndexValid src)
  | .sub dst src => decide (RegIndexValid dst) && decide (RegIndexValid src)
  | .push src => decide (RegIndexValid src)
  | .pop dst => decide (RegIndexValid dst)
  | .jp _ => true
  | .jl a b _ => decide (RegIndexValid a) && decide (RegIndexValid b)
  | .call _ => true
  | .ret => true
  | .print src => decide (RegIndexValid src)
  | .halt => true

end Sys2Proof
end

