-- ==== Sys2Proof/Decode.lean ====
section
/-! DEFINITION. The opcode map, the decoder and the encoder (spec 30_encoding R70 to R77). The decoder
is total on any list of Words and rejects by name. -/

namespace Sys2Proof

/-- R72: the twelve opcodes. -/
inductive Opcode where
  | movr | movv | add | sub | push | pop | jp | jl | call | ret | print | halt
deriving DecidableEq, Repr

/-- R72: the opcode Word of each opcode. -/
def Opcode.word : Opcode → Word
  | .movr => 10
  | .movv => 11
  | .add => 20
  | .sub => 21
  | .push => 30
  | .pop => 31
  | .jp => 40
  | .jl => 41
  | .call => 42
  | .ret => 50
  | .print => 60
  | .halt => 255

/-- R72: the number of operand Words of each opcode. -/
def Opcode.arity : Opcode → Nat
  | .movr => 2
  | .movv => 2
  | .add => 2
  | .sub => 2
  | .push => 1
  | .pop => 1
  | .jp => 1
  | .jl => 3
  | .call => 1
  | .ret => 0
  | .print => 1
  | .halt => 0

/-- R72: the twelve opcodes in the order of the map. -/
def opcodeMap : List Opcode :=
  [.movr, .movv, .add, .sub, .push, .pop, .jp, .jl, .call, .ret, .print, .halt]

/-- R77: the whole 32-bit Word is compared with the twelve values. -/
def opcodeOfWord (w : Word) : Option Opcode := opcodeMap.find? fun oc => oc.word == w

/-- The opcode of an instruction. -/
def Instr.opcode : Instr → Opcode
  | .movr _ _ => .movr
  | .movv _ _ => .movv
  | .add _ _ => .add
  | .sub _ _ => .sub
  | .push _ => .push
  | .pop _ => .pop
  | .jp _ => .jp
  | .jl _ _ _ => .jl
  | .call _ => .call
  | .ret => .ret
  | .print _ => .print
  | .halt => .halt

/-- Why a list of Words is no instruction. -/
inductive DecodeError where
  /-- there is no opcode Word (R78) -/
  | noOpcode
  /-- the opcode Word is none of the twelve (R77) -/
  | illegalOpcode (op : Word)
  /-- operand `k` (from 1) of the opcode is missing, and every lower one is there (R79) -/
  | missingOperand (op : Word) (k : Nat)
deriving DecidableEq, Repr

/-- What decoding answers: an instruction with the Words after it, or a reason. -/
abbrev Decoded := Except DecodeError (Instr × List Word)

/-- R71: the format with one operand Word. -/
def operandWords1 (op : Word) (mk : Word → Instr) : List Word → Decoded
  | [] => .error (.missingOperand op 1)
  | w1 :: rest => .ok (mk w1, rest)

/-- R71: the formats with two operand Words. -/
def operandWords2 (op : Word) (mk : Word → Word → Instr) : List Word → Decoded
  | [] => .error (.missingOperand op 1)
  | [_] => .error (.missingOperand op 2)
  | w1 :: w2 :: rest => .ok (mk w1 w2, rest)

/-- R71: the format with three operand Words. -/
def operandWords3 (op : Word) (mk : Word → Word → Word → Instr) : List Word → Decoded
  | [] => .error (.missingOperand op 1)
  | [_] => .error (.missingOperand op 2)
  | [_, _] => .error (.missingOperand op 3)
  | w1 :: w2 :: w3 :: rest => .ok (mk w1 w2 w3, rest)

/-- R70, R71, R74: the operands that follow an opcode, in the order of the format. -/
def decodeOperands (oc : Opcode) (ws : List Word) : Decoded :=
  match oc with
  | .movr => operandWords2 oc.word .movr ws
  | .movv => operandWords2 oc.word .movv ws
  | .add => operandWords2 oc.word .add ws
  | .sub => operandWords2 oc.word .sub ws
  | .push => operandWords1 oc.word .push ws
  | .pop => operandWords1 oc.word .pop ws
  | .jp => operandWords1 oc.word .jp ws
  | .jl => operandWords3 oc.word .jl ws
  | .call => operandWords1 oc.word .call ws
  | .ret => .ok (.ret, ws)
  | .print => operandWords1 oc.word .print ws
  | .halt => .ok (.halt, ws)

/-- R76, R77: the instruction at the head of a list of Words. -/
def decode : List Word → Decoded
  | [] => .error .noOpcode
  | op :: ws =>
    match opcodeOfWord op with
    | none => .error (.illegalOpcode op)
    | some oc => decodeOperands oc ws

/-- R71, R72: the operand Words of an instruction. -/
def Instr.operands : Instr → List Word
  | .movr dst src => [dst, src]
  | .movv dst literal => [dst, literal]
  | .add dst src => [dst, src]
  | .sub dst src => [dst, src]
  | .push src => [src]
  | .pop dst => [dst]
  | .jp addr => [addr]
  | .jl a b addr => [a, b, addr]
  | .call addr => [addr]
  | .ret => []
  | .print src => [src]
  | .halt => []

/-- R70, R72: the Words of an instruction, its opcode Word first. -/
def encode (i : Instr) : List Word := i.opcode.word :: i.operands

/-- The first four Words (the longest instruction, R70) of an instruction whose `nbits` bits are `w`,
bit 0 the least significant bit of the first Word; every bit above `nbits` is 0. -/
def tableWords (nbits w : Nat) : List Word :=
  [BitVec.ofNat 32 (w % 2 ^ nbits), BitVec.ofNat 32 (w % 2 ^ nbits / 2 ^ 32),
   BitVec.ofNat 32 (w % 2 ^ nbits / 2 ^ 64), BitVec.ofNat 32 (w % 2 ^ nbits / 2 ^ 96)]

/-- The instruction the decoder reads from the bits of an opcode-table row. -/
def decodeTableWord (nbits w : Nat) : Option Instr :=
  match decode (tableWords nbits w) with
  | .ok (i, _) => some i
  | .error _ => none

end Sys2Proof
end

