-- ==== Sys2Proof/Machine/State.lean ====
section
/-! DEFINITION. The state of the core (spec 10_state R20), with the inputs and parameters the step reads
(R41, R46, 00_scope R8), and the state right after reset (70_reset_and_hazards R181). -/

namespace Sys2Proof.Machine

/-- R21: the four registers. -/
inductive Reg where
  | r0 | r1 | r2 | r3
deriving DecidableEq, Repr

/-- R21: the register file, four Words. -/
structure RegFile where
  x0 : Word
  x1 : Word
  x2 : Word
  x3 : Word
deriving DecidableEq, Repr

/-- R31: RUN_STATE. -/
inductive RunState where
  | running | halted | errored
deriving DecidableEq, Repr

/-- R32: the values of ERR_CODE that occur. -/
inductive ErrCode where
  | none | stackUnderflow | invalidInstruction | outOfRange | stackOverflow
deriving DecidableEq, Repr

/-- R33: the values of ERR_SUB that occur. -/
inductive ErrSub where
  | none | fetch | operandFetch | regIndex | jumpTarget | retTarget
deriving DecidableEq, Repr

/-- R32 to R36: the fault record. -/
structure FaultRecord where
  /-- ERR_CODE -/
  code : ErrCode
  /-- ERR_SUB -/
  sub : ErrSub
  /-- ERR_ADDR -/
  addr : Word
  /-- ERR_OPCODE -/
  opcode : Word
  /-- ERR_VALUE -/
  value : Word
deriving DecidableEq, Repr

/-- R32 to R36: the reset value of the fault record, every field 0. -/
def FaultRecord.clear : FaultRecord :=
  { code := .none, sub := .none, addr := 0, opcode := 0, value := 0 }

/-- R50, R51: the Program Store, the core's only memory: word i of the list is at word address i, and
the length of the list is PROG_LEN (the loader contract of R43 makes `prog_len` that count). A list
of Words has one form only, so equal stores are equal data; there is no address that is below PROG_LEN
and not listed. Log entry 1. -/
abbrev Memory := List Word

/-- R8, R51: PROG_LEN is at most 2^31 - 1, so every address is a non-negative Word. -/
abbrev Memory.wf (m : Memory) : Prop := m.length ≤ Config.maxProgLen

/-- The state of the core. The first seven fields are the architectural state of R20 with the output
beat of R41; the last four are what the step reads from outside: inputs (R41, R50) and parameters (R8). -/
structure State where
  /-- R21: the registers x[0..3] -/
  x : RegFile
  /-- R25: the instruction pointer, an unsigned word address -/
  pc : Word
  /-- R28: the stack, bottom first, the last element the top -/
  stack : List Word
  /-- R38: the Output Sequence -/
  out : List Word
  /-- R41, R44: the output beat of the step that ended last: `some v` is `out_valid` with `out_data` = v -/
  outBeat : Option Word
  /-- R31: RUN_STATE -/
  runState : RunState
  /-- R32 to R36: the fault record -/
  err : FaultRecord
  /-- R50: the Program Store (an input, fixed for the run) -/
  program : Memory
  /-- R41, R180: the reset input -/
  rst : Bool
  /-- R41, R46: the level of `stop_req`; read only when HAS_STOP_REQ -/
  stopReq : Bool
  /-- R8: STACK_DEPTH and HAS_STOP_REQ -/
  params : Params
deriving DecidableEq, Repr

/-- R8: PROG_LEN. -/
def State.progLen (s : State) : Nat := s.program.length

/-- R181: the state right after reset. The Program Store and `prog_len` are inputs the host provides:
none is placed here. Both input levels are low and the parameters are the defaults of R8. -/
def State.reset : State :=
  { x := { x0 := 0, x1 := 0, x2 := 0, x3 := 0 }
    pc := 0
    stack := []
    out := []
    outBeat := none
    runState := .running
    err := FaultRecord.clear
    program := []
    rst := false
    stopReq := false
    params := Params.default }

/-- Reasons for which the machine could stop outside the spec's own faults. The spec's faults (R160 to
R167) are not here: they are taken, as a next state (R165). -/
inductive Fault where
  /-- Raised by `memRead` when it is given an address at or beyond PROG_LEN, where R53 defines no read.
  Safe. The fetch unit checks the bound before every read (R42), so no step ends in it. -/
  | noSuchProgramWord (addr : Nat)
deriving DecidableEq, Repr

/-- Reasons for which the model gives no meaning. -/
inductive Refusal where
  /-- Raised by an arm of exec whose instruction has no meaning yet. Safe. No arm is left so. -/
  | notModelled (mnemonic : String)
  /-- Raised by the step of a running core whose program is longer than 2^31 - 1 Words: "longer programs
  refuse" (spec 93_implementation_defined U6). Safe. -/
  | programTooLong
  /-- Raised by the host action that changes the Program Store while the core is RUNNING and not held in
  reset: "a model refuses such a run" (R58). Safe. -/
  | programStoreChanged
  /-- Raised by the host action on `stop_req` when HAS_STOP_REQ is false: "the port does not exist"
  (R46). Safe. -/
  | noStopPort
deriving DecidableEq, Repr

/-- What a step or a meaning answers. -/
abbrev Result := Host.Outcome State Fault Refusal

end Sys2Proof.Machine
end

