-- ==== Sys2Proof/Machine/Flags.lean ====
section
/-! DEFINITION. The core has no flags (spec 10_state R39). Here stand the two arithmetic results and the
one comparison (41_arithmetic R112, R113), computed exactly on integers and then wrapped. -/

namespace Sys2Proof.Machine

/-- R10: the Word congruent to n modulo 2^32. -/
def wrap (n : Int) : Word := BitVec.ofInt 32 n

/-- R110, R112: the sum, wrapped. -/
def addWords (a b : Word) : Word := wrap (a.toInt + b.toInt)

/-- R111, R112: the difference, wrapped. -/
def subWords (a b : Word) : Word := wrap (a.toInt - b.toInt)

/-- R10, R131: the signed comparison `a <s b`. -/
abbrev LessSigned (a b : Word) : Prop := a.toInt < b.toInt

end Sys2Proof.Machine
end

