-- ==== Sys2Proof/Machine/Ops.lean ====
section
/-! DEFINITION. The shared operations: registers, Program Store reads, the stack, the next-pc
multiplexer, the commit at the end of a step, and fault entry (spec 00_scope R11, 10_state, 20_memory,
30_encoding R85 and R88, 60_exceptions R165). -/

namespace Sys2Proof.Machine

/-- R11: `x[r]`. -/
def RegFile.read (x : RegFile) : Reg → Word
  | .r0 => x.x0
  | .r1 => x.x1
  | .r2 => x.x2
  | .r3 => x.x3

/-- R11: `x[r] <- v`. -/
def RegFile.write (x : RegFile) (r : Reg) (v : Word) : RegFile :=
  match r with
  | .r0 => { x with x0 := v }
  | .r1 => { x with x1 := v }
  | .r2 => { x with x2 := v }
  | .r3 => { x with x3 := v }

/-- R11, R53: `MemRead(addr, 1)`, defined only below PROG_LEN. -/
def memRead (a : Nat) (s : State) : Except Fault Word :=
  match s.program[a]? with
  | some w => .ok w
  | none => .error (.noSuchProgramWord a)

/-- R28: the stack is at the capacity STACK_DEPTH. -/
def stackFull (s : State) : Bool :=
  match s.params.stackDepth with
  | .unbounded => false
  | .finite n => decide (s.stack.length = n)

/-- R11: `Top()`, absent on an empty stack. -/
def stackTop (s : State) : Option Word := s.stack.getLast?

/-- R28: what an instruction does to the stack. -/
inductive StackOp where
  | keep
  | push (v : Word)
  | pop
deriving DecidableEq, Repr

/-- R11, R28: `Push(v)` and `Pop()` on the list whose last element is the top. -/
def StackOp.apply (op : StackOp) (st : List Word) : List Word :=
  match op with
  | .keep => st
  | .push v => st ++ [v]
  | .pop => st.dropLast

/-- R85: the four inputs of the next-pc multiplexer. -/
inductive NextPc where
  /-- SEQ: pc + the instruction length -/
  | seq (length : Word)
  /-- TARGET: the address operand of JP, of a taken JL, or of CALL -/
  | target (t : Word)
  /-- STACK: the Word RET pops -/
  | stack (t : Word)
  /-- HOLD: pc -/
  | hold
deriving DecidableEq, Repr

/-- R85: the next-pc multiplexer. -/
def nextPc (sel : NextPc) (pc : Word) : Word :=
  match sel with
  | .seq n => pc + n
  | .target t => t
  | .stack t => t
  | .hold => pc

/-- R83: the control signals of an instruction that raises no fault. -/
structure Effect where
  /-- the register write, if any -/
  write : Option (Reg × Word) := none
  /-- the stack change -/
  stack : StackOp := .keep
  /-- the Word PRINT emits, if any -/
  emit : Option Word := none
  /-- HALT only: RUN_STATE becomes HALTED -/
  halt : Bool := false
  /-- the next-pc select -/
  next : NextPc
deriving DecidableEq, Repr

/-- R83: the register write, if any. -/
def applyWrite (w : Option (Reg × Word)) (x : RegFile) : RegFile :=
  match w with
  | none => x
  | some (r, v) => x.write r v

/-- R88: the end of a step that raised no fault: the register write, the stack change, the output append
with its beat, RUN_STATE (HALT only) and pc, all together. A step that emits nothing shows no beat (R44). -/
def commit (e : Effect) (s : State) : State :=
  { s with
    x := applyWrite e.write s.x
    stack := e.stack.apply s.stack
    out := s.out ++ e.emit.toList
    outBeat := e.emit
    runState := if e.halt then .halted else s.runState
    pc := nextPc e.next s.pc }

/-- R165: fault entry. RUN_STATE becomes ERRORED, the fault record is written with ERR_ADDR = pc, no beat
is emitted, and nothing else changes (the pc is held). There is no vector and no handler (R160), and no
return from a fault (R169): only reset leaves ERRORED. -/
def enterFault (code : ErrCode) (sub : ErrSub) (opcode value : Word) (s : State) : State :=
  { s with
    runState := .errored
    err := { code := code, sub := sub, addr := s.pc, opcode := opcode, value := value }
    outBeat := none }

/-- R161: StackUnderflow of the opcode. -/
def raiseStackUnderflow (oc : Opcode) (s : State) : Result :=
  .next (enterFault .stackUnderflow .none oc.word 0 s)

/-- R163: StackOverflow of the opcode. -/
def raiseStackOverflow (oc : Opcode) (s : State) : Result :=
  .next (enterFault .stackOverflow .none oc.word 0 s)

/-- R164: OutOfRange with a sub-kind, the opcode Word and the offending value. -/
def raiseOutOfRange (sub : ErrSub) (opcode value : Word) (s : State) : Result :=
  .next (enterFault .outOfRange sub opcode value s)

/-- R162: InvalidInstruction, naming the opcode Word. -/
def raiseInvalidInstruction (opcode : Word) (s : State) : Result :=
  .next (enterFault .invalidInstruction .none opcode 0 s)

/-- R46, R178: no step is taken. The state stays; the one beat of an earlier PRINT has passed (R44). -/
def noStep (s : State) : State := { s with outBeat := none }

/-- R181: the start-of-run value of every piece of state. The Program Store, the two input levels and
the parameters are not state of the run: they stay. -/
def startOfRun (s : State) : State :=
  { State.reset with
    program := s.program
    rst := s.rst
    stopReq := s.stopReq
    params := s.params }

/-- R46: `stop_req` is present and asserted. -/
def stopRequested (s : State) : Bool := s.params.hasStopReq && s.stopReq

end Sys2Proof.Machine
end

