-- ==== Sys2Proof/Machine/Operands.lean ====
section
/-! DEFINITION. The operand kinds: register index, literal and address (spec 30_encoding R73, R74, R80,
R87). A literal is the Word itself and needs no operation. -/

namespace Sys2Proof.Machine

/-- R73: the operand Word that names a register. -/
def regWord : Reg → Word
  | .r0 => 0
  | .r1 => 1
  | .r2 => 2
  | .r3 => 3

/-- R24, R73: the register s(w) that an operand Word names, if it names one. -/
def regOfWord (w : Word) : Option Reg :=
  if w = 0 then some .r0
  else if w = 1 then some .r1
  else if w = 2 then some .r2
  else if w = 3 then some .r3
  else none

/-- R80: the register operand w of the opcode is checked; a bad one enters OutOfRange/REG_INDEX. -/
def withReg (oc : Opcode) (w : Word) (s : State) (run : Reg → Result) : Result :=
  match regOfWord w with
  | some r => run r
  | none => raiseOutOfRange .regIndex oc.word w s

/-- R80: two register operands, checked in ascending word position. -/
def withRegs (oc : Opcode) (w1 w2 : Word) (s : State) (run : Reg → Reg → Result) : Result :=
  withReg oc w1 s fun p => withReg oc w2 s fun q => run p q

/-- R87: a TARGET or STACK value t is valid when 0 <= s(t) < PROG_LEN. -/
abbrev ValidTarget (s : State) (t : Word) : Prop := 0 ≤ t.toInt ∧ t.toInt < (s.progLen : Int)

/-- R87: the target of JP, of a taken JL or of CALL is checked before any effect. -/
def withTarget (oc : Opcode) (t : Word) (s : State) (run : Result) : Result :=
  if ValidTarget s t then run else raiseOutOfRange .jumpTarget oc.word t s

/-- R74, R83: the register operands of an instruction, in ascending word position. -/
def registerOperands : Instr → List Word
  | .movr dst src => [dst, src]
  | .movv dst _ => [dst]
  | .add dst src => [dst, src]
  | .sub dst src => [dst, src]
  | .push src => [src]
  | .pop dst => [dst]
  | .jp _ => []
  | .jl a b _ => [a, b]
  | .call _ => []
  | .ret => []
  | .print src => [src]
  | .halt => []

end Sys2Proof.Machine
end

