-- ==== Sys2Proof/Machine/Arithmetic.lean ====
section
/-! DEFINITION. Arithmetic: ADD and SUB (spec 41_arithmetic). -/

namespace Sys2Proof.Machine

/-- R110 -/
def execAdd (dst src : Word) (s : State) : Result :=
  withRegs .add dst src s fun d r =>
    .next (commit { write := some (d, addWords (s.x.read d) (s.x.read r)), next := .seq 3 } s)

/-- R111 -/
def execSub (dst src : Word) (s : State) : Result :=
  withRegs .sub dst src s fun d r =>
    .next (commit { write := some (d, subWords (s.x.read d) (s.x.read r)), next := .seq 3 } s)

end Sys2Proof.Machine
end

