-- ==== Sys2Proof/Machine/Control.lean ====
section
/-! DEFINITION. Control transfer and return: JP, JL, CALL and RET (spec 43_control_transfer). -/

namespace Sys2Proof.Machine

/-- R130 -/
def execJp (addr : Word) (s : State) : Result :=
  withTarget .jp addr s (.next (commit { next := .target addr } s))

/-- R131: the target is checked only when the branch is taken. -/
def execJl (a b addr : Word) (s : State) : Result :=
  withRegs .jl a b s fun ra rb =>
    if LessSigned (s.x.read ra) (s.x.read rb) then
      withTarget .jl addr s (.next (commit { next := .target addr } s))
    else .next (commit { next := .seq 4 } s)

/-- R132: the target is checked before the stack; the return address is pc + 2. -/
def execCall (addr : Word) (s : State) : Result :=
  withTarget .call addr s
    (if stackFull s then raiseStackOverflow .call s
     else .next (commit { stack := .push (s.pc + 2), next := .target addr } s))

/-- R133: the top Word is checked before it is popped. -/
def execRet (s : State) : Result :=
  match stackTop s with
  | none => raiseStackUnderflow .ret s
  | some t =>
    if ValidTarget s t then .next (commit { stack := .pop, next := .stack t } s)
    else raiseOutOfRange .retTarget Opcode.ret.word t s

end Sys2Proof.Machine
end

