-- ==== Sys2Proof/Machine/Movement.lean ====
section
/-! DEFINITION. Data movement: MOVR and MOVV (spec 40_data_movement). -/

namespace Sys2Proof.Machine

/-- R100 -/
def execMovr (dst src : Word) (s : State) : Result :=
  withRegs .movr dst src s fun d r =>
    .next (commit { write := some (d, s.x.read r), next := .seq 3 } s)

/-- R101 -/
def execMovv (dst literal : Word) (s : State) : Result :=
  withReg .movv dst s fun d =>
    .next (commit { write := some (d, literal), next := .seq 3 } s)

end Sys2Proof.Machine
end

