-- ==== Sys2Proof/Machine/Output.lean ====
section
/-! DEFINITION. Output and halt: PRINT and HALT (spec 44_output_and_halt). -/

namespace Sys2Proof.Machine

/-- R150 -/
def execPrint (src : Word) (s : State) : Result :=
  withReg .print src s fun r =>
    .next (commit { emit := some (s.x.read r), next := .seq 2 } s)

/-- R152: the pc keeps the address of the HALT. -/
def execHalt (s : State) : Result :=
  .next (commit { halt := true, next := .hold } s)

end Sys2Proof.Machine
end

