-- ==== Sys2Proof/Machine/Stack.lean ====
section
/-! DEFINITION. The stack instructions PUSH and POP (spec 42_stack). -/

namespace Sys2Proof.Machine

/-- R120 -/
def execPush (src : Word) (s : State) : Result :=
  withReg .push src s fun r =>
    if stackFull s then raiseStackOverflow .push s
    else .next (commit { stack := .push (s.x.read r), next := .seq 2 } s)

/-- R121 -/
def execPop (dst : Word) (s : State) : Result :=
  withReg .pop dst s fun d =>
    match stackTop s with
    | none => raiseStackUnderflow .pop s
    | some v => .next (commit { write := some (d, v), stack := .pop, next := .seq 2 } s)

end Sys2Proof.Machine
end

