-- ==== Sys2Proof/Machine/Fetch.lean ====
section
/-! DEFINITION. The fetch unit (spec 30_encoding R76, R78, R79, R82), and what a Word list that does not
decode raises. -/

namespace Sys2Proof.Machine

/-- R42, R82: up to n Words from address a on, one at a time in ascending order. The bound is checked
before every read, and fetching ends at the first address that is not below PROG_LEN. -/
def fetchWords (s : State) (a : Nat) : Nat → Except Fault (List Word)
  | 0 => .ok []
  | n + 1 =>
    if a < s.progLen then
      match memRead a s with
      | .error f => .error f
      | .ok w =>
        match fetchWords s (a + 1) n with
        | .error f => .error f
        | .ok ws => .ok (w :: ws)
    else .ok []

/-- R75, R76: the opcode Word at pc, then as many operand Words as the opcode has; fewer where the program
ends. An illegal opcode has no operands to fetch. -/
def fetchInstr (s : State) : Except Fault (List Word) :=
  match fetchWords s s.pc.toNat 1 with
  | .error f => .error f
  | .ok [] => .ok []
  | .ok (op :: _) =>
    match opcodeOfWord op with
    | none => .ok [op]
    | some oc =>
      match fetchWords s (s.pc.toNat + 1) oc.arity with
      | .error f => .error f
      | .ok ws => .ok (op :: ws)

/-- R77, R78, R79: the fault of Words that are no instruction. -/
def raiseDecodeError (e : DecodeError) (s : State) : Result :=
  match e with
  | .noOpcode => raiseOutOfRange .fetch 0 s.pc s
  | .illegalOpcode op => raiseInvalidInstruction op s
  | .missingOperand op k => raiseOutOfRange .operandFetch op (s.pc + BitVec.ofNat 32 k) s

/-- A Program Store with the given Words at address a on: the host's load of an instruction. A store that
ends before a is made longer with zero Words. -/
def Memory.overlay (m : Memory) (a : Nat) (ws : List Word) : Memory :=
  (m ++ List.replicate (a - m.length) 0).take a ++ ws ++ m.drop (a + ws.length)

/-- The program holds the Words at pc, and the core is RUNNING, not held in reset and not asked to stop:
all that the next step's fetch takes. -/
def loadAtPc (ws : List Word) (s : State) : State :=
  { s with
    program := Memory.overlay s.program s.pc.toNat ws
    runState := .running
    rst := false
    stopReq := false }

end Sys2Proof.Machine
end

