-- ==== Sys2Proof/Machine/Cycle.lean ====
section
/-! DEFINITION. The instruction cycle (spec 30_encoding R76) and when it is taken (10_state R31, R46;
70_reset_and_hazards R180). -/

namespace Sys2Proof.Machine

/-- R76: fetch, decode, execute, commit. The register check of R80 stands first in each meaning, and each
meaning commits (R88) or enters a fault (R165). -/
def runInstr (s : State) : Result :=
  match fetchInstr s with
  | .error f => .fault f
  | .ok ws =>
    match decode ws with
    | .ok (i, _) => exec i s
    | .error e => raiseDecodeError e s

/-- One step. While `rst` is asserted the core holds the start-of-run state (R180). HALTED and ERRORED
take no step (R31, R178), and neither does a core that `stop_req` withholds (R46): the state stays, and
the model answers it as the next state (log entry 3). A program longer than 2^31 - 1 Words has no meaning
(spec 93_implementation_defined U6). -/
def cycle (s : State) : Result :=
  if s.rst then .next (startOfRun s)
  else
    match s.runState with
    | .halted => .next (noStep s)
    | .errored => .next (noStep s)
    | .running =>
      if stopRequested s then .next (noStep s)
      else if Memory.wf s.program then runInstr s
      else .refused .programTooLong

end Sys2Proof.Machine
end

