-- ==== Sys2Proof/Machine/Step.lean ====
section
/-! DEFINITION. The step function, and the state in which a given instruction is the next one fetched. -/

namespace Sys2Proof.Machine

/-- One step of the core (R76, R180). -/
def step (s : State) : Host.Outcome State Fault Refusal := cycle s

/-- The state in which the instruction whose `nbits` bits are `w` stands at pc (operand Words above `nbits`
zero, up to the four Words of the longest instruction), so that the very next step fetches and runs it. -/
def State.withFetchWord (s : State) (nbits w : Nat) : State := loadAtPc (tableWords nbits w) s

end Sys2Proof.Machine
end

