-- ==== Sys2Proof/Machine/HostPort.lean ====
section
/-! DEFINITION. The host's side of the core: the encodings and the ports it observes (spec 10_state R31 to
R36, R41, R45) and the actions it may take (R46, R47, 20_memory R58, 70_reset_and_hazards R180, R184). How an action meets the
state between two steps is the model's own choice: log entries 4 and 9. -/

namespace Sys2Proof.Machine

/-- R31: RUNNING 0, HALTED 1, ERRORED 2; 3 is never produced. -/
def RunState.bits : RunState → BitVec 2
  | .running => 0
  | .halted => 1
  | .errored => 2

/-- R32: 0 NONE, 1 STACK_UNDERFLOW, 2 INVALID_INSTRUCTION, 3 OUT_OF_RANGE, 4 STACK_OVERFLOW. -/
def ErrCode.bits : ErrCode → BitVec 3
  | .none => 0
  | .stackUnderflow => 1
  | .invalidInstruction => 2
  | .outOfRange => 3
  | .stackOverflow => 4

/-- R33: 1 FETCH, 2 OPERAND_FETCH, 3 REG_INDEX, 4 JUMP_TARGET, 5 RET_TARGET; 0 otherwise. -/
def ErrSub.bits : ErrSub → BitVec 3
  | .none => 0
  | .fetch => 1
  | .operandFetch => 2
  | .regIndex => 3
  | .jumpTarget => 4
  | .retTarget => 5

/-- R41: the output ports between two steps. -/
structure Ports where
  outValid : Bool
  /-- meaningful while `out_valid`; absent otherwise -/
  outData : Option Word
  runState : BitVec 2
  errCode : BitVec 3
  errSub : BitVec 3
  errAddr : Word
  errOpcode : Word
  errValue : Word
  pcO : Word
deriving DecidableEq, Repr

/-- R44, R45: what the ports show. -/
def ports (s : State) : Ports :=
  { outValid := s.outBeat.isSome
    outData := s.outBeat
    runState := s.runState.bits
    errCode := s.err.code.bits
    errSub := s.err.sub.bits
    errAddr := s.err.addr
    errOpcode := s.err.opcode
    errValue := s.err.value
    pcO := s.pc }

/-- R47: what the host may do between two steps. Observing and consuming change nothing: they read
`ports`. -/
inductive HostAction where
  /-- write the program Words and `prog_len` -/
  | load (words : List Word)
  /-- drive `rst` -/
  | setRst (level : Bool)
  /-- drive `stop_req` -/
  | setStop (level : Bool)
deriving DecidableEq, Repr

/-- R47, R58, R184: loading. While `rst` is asserted the core holds the start-of-run state over the new
program; a run that has ended is not disturbed; a change while RUNNING is refused. -/
def hostLoad (words : List Word) (s : State) : Result :=
  if s.rst then .next (startOfRun { s with program := words })
  else
    match s.runState with
    | .running => .refused .programStoreChanged
    | .halted => .next { s with program := words }
    | .errored => .next { s with program := words }

/-- R180: asserting `rst` abandons the run in any RUN_STATE; releasing it starts a new run at address 0. -/
def hostSetRst (level : Bool) (s : State) : Result :=
  if level then .next (startOfRun { s with rst := true })
  else if s.rst then .next (startOfRun { s with rst := false })
  else .next s

/-- R46: `stop_req` exists only when HAS_STOP_REQ; driving it changes no state of the run. -/
def hostSetStop (level : Bool) (s : State) : Result :=
  if s.params.hasStopReq then .next { s with stopReq := level } else .refused .noStopPort

/-- R47: the effect of a host action. -/
def hostAct (a : HostAction) (s : State) : Result :=
  match a with
  | .load words => hostLoad words s
  | .setRst level => hostSetRst level s
  | .setStop level => hostSetStop level s

end Sys2Proof.Machine
end

