-- ==== Sys2Proof/Safety.lean ====
section
/-! DEFINITION. The terms the claims are stated in: when a step is taken, what a fault leaves, how a run
ends, and the invariant of the core. -/

namespace Sys2Proof.Machine

/-- R31, R46, R180, R8: the core takes a step: it is RUNNING, not held in reset, not withheld by
`stop_req`, and its program is one the spec admits. -/
abbrev Ready (s : State) : Prop :=
  s.rst = false ∧ s.runState = .running ∧ stopRequested s = false ∧ Memory.wf s.program

/-- R165, in the spec's words and apart from the model's own operation: RUN_STATE is ERRORED, the record
says code, sub-kind, pc, opcode and value, no beat is shown, and everything else is as in s. -/
def erroredFrom (s : State) (code : ErrCode) (sub : ErrSub) (opcode value : Word) : State :=
  { x := s.x
    pc := s.pc
    stack := s.stack
    out := s.out
    outBeat := none
    runState := .errored
    err := { code := code, sub := sub, addr := s.pc, opcode := opcode, value := value }
    program := s.program
    rst := s.rst
    stopReq := s.stopReq
    params := s.params }

/-- R79: the steps whose opcode Word is op, with the given arity, and whose k-th operand Word is the first
at or beyond PROG_LEN, enter OutOfRange/OPERAND_FETCH with ERR_VALUE = pc + k. -/
def TruncatedFaults (op : Word) (arity : Nat) : Prop :=
  ∀ (s : State) (k : Nat), Ready s → s.program[s.pc.toNat]? = some op → 1 ≤ k → k ≤ arity →
    s.progLen = s.pc.toNat + k →
    step s = .next (erroredFrom s .outOfRange .operandFetch op (BitVec.ofNat 32 (s.pc.toNat + k)))

/-- R185: a run has ended when RUN_STATE is not RUNNING. -/
abbrev Ended (s : State) : Prop := s.runState ≠ .running

/-- R185: it ended well when RUN_STATE is HALTED. -/
abbrev EndedWell (s : State) : Prop := s.runState = .halted

/-- R22: the Words that name the registers an instruction reads. -/
def registersRead : Instr → List Word
  | .movr _ src => [src]
  | .movv _ _ => []
  | .add dst src => [dst, src]
  | .sub dst src => [dst, src]
  | .push src => [src]
  | .pop _ => []
  | .jp _ => []
  | .jl a b _ => [a, b]
  | .call _ => []
  | .ret => []
  | .print src => [src]
  | .halt => []

/-- R22: the Word that names the register an instruction writes. -/
def registerWritten : Instr → Option Word
  | .movr dst _ => some dst
  | .movv dst _ => some dst
  | .add dst _ => some dst
  | .sub dst _ => some dst
  | .push _ => none
  | .pop dst => some dst
  | .jp _ => none
  | .jl _ _ _ => none
  | .call _ => none
  | .ret => none
  | .print _ => none
  | .halt => none

/-- R72: the opcode map as numbers, each opcode Word with its arity. -/
def opcodeArities : List (Word × Nat) :=
  [(10, 2), (11, 2), (20, 2), (21, 2), (30, 1), (31, 1), (40, 1), (41, 3), (42, 1), (50, 0), (60, 1),
   (255, 0)]

/-- R83: the number of leading operand Words that are register operands, by opcode Word. -/
def registerOperandCount (op : Word) : Nat :=
  if op ∈ [10, 20, 21, 41] then 2 else if op ∈ [11, 30, 31, 60] then 1 else 0

/-- R10, R70: the program Word k places after pc, read by number. -/
def wordAt (s : State) (k : Nat) : Word := s.program.getD (s.pc.toNat + k) 0

/-- R83: the register that a valid operand Word names, read by number. -/
def registerValue (s : State) (w : Word) : Word :=
  if w = 0 then s.x.x0 else if w = 1 then s.x.x1 else if w = 2 then s.x.x2 else s.x.x3

/-- R87: 0 <= s(t) < PROG_LEN does not hold. -/
def badTarget (s : State) (t : Word) : Bool := decide (t.toInt < 0) || decide ((s.progLen : Int) ≤ t.toInt)

/-- R163: STACK_DEPTH is a finite N and depth = N. -/
def atCapacity (s : State) : Bool := decide (s.params.stackDepth = .finite s.stack.length)

/-- R167 (5): the own checks of the opcode op, in the order of its pseudocode, as code, sub-kind and
value. -/
def ownChecks (s : State) (op : Word) : Option (ErrCode × ErrSub × Word) :=
  if op = 31 ∧ s.stack = [] then some (.stackUnderflow, .none, 0)
  else if op = 30 ∧ atCapacity s then some (.stackOverflow, .none, 0)
  else if op = 40 ∧ badTarget s (wordAt s 1) then some (.outOfRange, .jumpTarget, wordAt s 1)
  else if op = 41 ∧ (registerValue s (wordAt s 1)).toInt < (registerValue s (wordAt s 2)).toInt ∧
      badTarget s (wordAt s 3) then some (.outOfRange, .jumpTarget, wordAt s 3)
  else if op = 42 ∧ badTarget s (wordAt s 1) then some (.outOfRange, .jumpTarget, wordAt s 1)
  else if op = 42 ∧ atCapacity s then some (.stackOverflow, .none, 0)
  else if op = 50 ∧ s.stack = [] then some (.stackUnderflow, .none, 0)
  else if op = 50 ∧ badTarget s (s.stack.getLastD 0) then
    some (.outOfRange, .retTarget, s.stack.getLastD 0)
  else none

/-- R167: the record of the first check that fails in the step at pc, read off the program Words by number
and in the order the rule gives, apart from the model's fetch, decoder and meanings; none where no check
fails. -/
def firstFault (s : State) : Option FaultRecord :=
  let record := fun code sub opcode value =>
    some ({ code := code, sub := sub, addr := s.pc, opcode := opcode, value := value } : FaultRecord)
  let op := wordAt s 0
  if s.progLen ≤ s.pc.toNat then record .outOfRange .fetch 0 s.pc                            -- (1)
  else
    match opcodeArities.lookup op with
    | none => record .invalidInstruction .none op 0                                         -- (2)
    | some arity =>
      if s.progLen ≤ s.pc.toNat + arity then
        record .outOfRange .operandFetch op (BitVec.ofNat 32 s.progLen)                     -- (3)
      else if 1 ≤ registerOperandCount op ∧ ¬ RegIndexValid (wordAt s 1) then
        record .outOfRange .regIndex op (wordAt s 1)                                        -- (4)
      else if 2 ≤ registerOperandCount op ∧ ¬ RegIndexValid (wordAt s 2) then
        record .outOfRange .regIndex op (wordAt s 2)
      else (ownChecks s op).map fun c =>                                                     -- (5)
        { code := c.1, sub := c.2.1, addr := s.pc, opcode := op, value := c.2.2 }

/-- What holds of the core in every state a run reaches. -/
structure Inv (s : State) : Prop where
  /-- R8, R51: PROG_LEN is at most 2^31 - 1 -/
  program_bounded : Memory.wf s.program
  /-- R25, R79: pc never runs further than PROG_LEN, so it never wraps -/
  pc_in_reach : s.pc.toNat ≤ s.progLen
  /-- R28: a finite STACK_DEPTH is never exceeded -/
  depth_bounded : ∀ n, s.params.stackDepth = .finite n → s.stack.length ≤ n
  /-- R32: RUN_STATE = ERRORED exactly when ERR_CODE is not 0 -/
  errored_iff : s.runState = .errored ↔ s.err.code ≠ .none
  /-- R33: ERR_SUB is meaningful only for OUT_OF_RANGE, and never 0 there -/
  sub_iff : s.err.code = .outOfRange ↔ s.err.sub ≠ .none
  /-- R32: STACK_OVERFLOW is only produced when STACK_DEPTH is finite -/
  overflow_finite : s.err.code = .stackOverflow → s.params.stackDepth ≠ .unbounded
  /-- R32 to R36: with no fault the record has its reset value -/
  record_clear : s.err.code = .none → s.err = FaultRecord.clear
  /-- R34, R165: ERR_ADDR is the pc of the faulting step, where pc stays -/
  addr_is_pc : s.runState = .errored → s.err.addr = s.pc
  /-- R35: ERR_OPCODE is the Word fetched at ERR_ADDR, or 0 where none was fetched -/
  opcode_fetched : s.runState = .errored → s.err.sub ≠ .fetch →
    s.program[s.pc.toNat]? = some s.err.opcode
  opcode_absent : s.err.sub = .fetch → s.err.opcode = 0
  /-- R36: ERR_VALUE is 0 for a fault that has no offending value -/
  value_absent : s.err.code ≠ .outOfRange → s.err.value = 0
  /-- R152: HALTED keeps the pc at the HALT executed -/
  halted_at_halt : s.runState = .halted → s.program[s.pc.toNat]? = some 255

end Sys2Proof.Machine
end

