-- ==== Sys2Proof/Certificates/Slice0/Obligations.lean ====
section
/-! DEFINITION. The statements for the provers. An instruction's statement has one clause for its encoding,
one for each way it ends (its own effect, with every field it leaves alone; each fault it can raise), and
one for its truncation at the end of the program. `{ s with … }` says the frame: every register, the
stack, the Output Sequence, RUN_STATE, the fault record, the Program Store, the inputs and the parameters
not named are as before. `outBeat` is the output port between steps (R41), down after every step but a
PRINT. The core has no flags (R39). -/

open Sys2Proof Sys2Proof.Machine

/-- R181: every piece of state has its start-of-run value right after reset, and whenever the core is
brought back to the start of a run, where the Program Store is kept. -/
def Obligations.ResetValuesAreStartOfRun : Prop :=
  ∀ s : State, ∀ t ∈ [State.reset, startOfRun s],
    (∀ r, t.x.read r = 0) ∧ t.pc = 0 ∧ t.stack = [] ∧ t.out = [] ∧ t.runState = .running ∧
    t.err = { code := .none, sub := .none, addr := 0, opcode := 0, value := 0 } ∧ t.outBeat = none ∧
    (startOfRun s).program = s.program

/-- The invariant holds right after reset. -/
def Obligations.ResetMeetsInvariant : Prop := Inv State.reset

/-- Every step keeps the invariant: R25 (pc never wraps), R28, R31, R32 to R36, R152. -/
def Obligations.StepKeepsInvariant : Prop :=
  ∀ s t : State, Inv s → step s = .next t → Inv t

/-- A host action keeps the invariant: any action on the inputs, and a load made while `rst` is asserted
(R47) of a program the spec admits (R8). -/
def Obligations.HostActionKeepsInvariant : Prop :=
  ∀ (act : HostAction) (s t : State), Inv s →
    (∀ ws, act = .load ws → s.rst = true ∧ Memory.wf ws) → hostAct act s = .next t → Inv t

/-- R70 to R74: decoding the Words of any instruction, whatever follows them, gives it back with every
operand, and leaves what follows. -/
def Obligations.DecodeInvertsEncode : Prop :=
  ∀ (i : Instr) (rest : List Word), decode (encode i ++ rest) = .ok (i, rest)

/-- R70 to R77: whatever decodes is the Words of the instruction it decodes to. -/
def Obligations.EncodeInvertsDecode : Prop :=
  ∀ (ws rest : List Word) (i : Instr), decode ws = .ok (i, rest) → ws = encode i ++ rest

/-- R72, R74: Words written out from the opcode map, one instruction of each opcode. -/
def Obligations.OpcodeMapWordsDecode : Prop :=
  decode [10, 0, 2] = .ok (.movr 0 2, []) ∧
  decode [11, 1, 42] = .ok (.movv 1 42, []) ∧
  decode [20, 0, 1] = .ok (.add 0 1, []) ∧
  decode [21, 2, 3] = .ok (.sub 2 3, []) ∧
  decode [30, 3] = .ok (.push 3, []) ∧
  decode [31, 2] = .ok (.pop 2, []) ∧
  decode [40, 5] = .ok (.jp 5, []) ∧
  decode [41, 2, 0, 9] = .ok (.jl 2 0 9, []) ∧
  decode [42, 17] = .ok (.call 17, []) ∧
  decode [50] = .ok (.ret, []) ∧
  decode [60, 1] = .ok (.print 1, []) ∧
  decode [255] = .ok (.halt, [])

/-- R76: a step runs the instruction the Words at pc decode to. There is no delay slot (R135): a step adds
nothing to the instruction's own effect. -/
def Obligations.StepRunsDecodedInstruction : Prop :=
  ∀ (s : State) (i : Instr) (rest : List Word), Ready s →
    decode (s.program.drop s.pc.toNat) = .ok (i, rest) → step s = exec i s

/-- R77, R162: an opcode Word that is none of the twelve. -/
def Obligations.IllegalOpcodeEntersFault : Prop :=
  ∀ (s : State) (op : Word), Ready s → s.program[s.pc.toNat]? = some op →
    op ∉ ([10, 11, 20, 21, 30, 31, 40, 41, 42, 50, 60, 255] : List Word) →
    step s = .next (erroredFrom s .invalidInstruction .none op 0)

/-- R78: an opcode fetch at or beyond PROG_LEN; the fetch unit reads nothing. -/
def Obligations.FetchBeyondProgramEntersFault : Prop :=
  ∀ s : State, Ready s → s.progLen ≤ s.pc.toNat →
    step s = .next (erroredFrom s .outOfRange .fetch 0 s.pc) ∧ fetchInstr s = .ok []

/-- R79: an operand Word at or beyond PROG_LEN, for each opcode of the map. -/
def Obligations.MissingOperandEntersFault : Prop :=
  ∀ p ∈ opcodeArities, TruncatedFaults p.1 p.2

/-- R80: at a step whose Words decode, the first register operand, in ascending word position, that is
outside 0 .. 3 enters the fault, whatever the rest of the state. -/
def Obligations.BadRegisterOperandEntersFault : Prop :=
  ∀ (s : State) (i : Instr) (rest : List Word) (w : Word), Ready s →
    decode (s.program.drop s.pc.toNat) = .ok (i, rest) →
    (registerOperands i).find? (fun v => ! decide (RegIndexValid v)) = some w →
    step s = .next (erroredFrom s .outOfRange .regIndex i.opcode.word w)

/-- R167: a step enters the fault of the first check that fails in the order of the rule, with its record,
and where no check fails it enters none. -/
def Obligations.FirstFailingCheckDecidesFault : Prop :=
  ∀ s : State, Ready s →
    (∀ r, firstFault s = some r → step s = .next (erroredFrom s r.code r.sub r.opcode r.value)) ∧
    (firstFault s = none → ∃ t, step s = .next t ∧ t.runState ≠ .errored)

/-- R100. -/
def Obligations.MovrCopiesRegister : Prop :=
  (∀ dst src rest, decode (10 :: dst :: src :: rest) = .ok (.movr dst src, rest)) ∧
  (∀ (s : State) (d r : Reg), exec (.movr (regWord d) (regWord r)) s =
    .next { s with x := s.x.write d (s.x.read r), pc := s.pc + 3, outBeat := none }) ∧
  (∀ (s : State) (dst src : Word), ¬ RegIndexValid dst →
    exec (.movr dst src) s = .next (erroredFrom s .outOfRange .regIndex 10 dst)) ∧
  (∀ (s : State) (d : Reg) (src : Word), ¬ RegIndexValid src →
    exec (.movr (regWord d) src) s = .next (erroredFrom s .outOfRange .regIndex 10 src)) ∧
  TruncatedFaults 10 2

/-- R101. -/
def Obligations.MovvLoadsLiteral : Prop :=
  (∀ dst literal rest, decode (11 :: dst :: literal :: rest) = .ok (.movv dst literal, rest)) ∧
  (∀ (s : State) (d : Reg) (literal : Word), exec (.movv (regWord d) literal) s =
    .next { s with x := s.x.write d literal, pc := s.pc + 3, outBeat := none }) ∧
  (∀ (s : State) (dst literal : Word), ¬ RegIndexValid dst →
    exec (.movv dst literal) s = .next (erroredFrom s .outOfRange .regIndex 11 dst)) ∧
  TruncatedFaults 11 2

/-- R110. -/
def Obligations.AddWritesWrappedSum : Prop :=
  (∀ dst src rest, decode (20 :: dst :: src :: rest) = .ok (.add dst src, rest)) ∧
  (∀ (s : State) (d r : Reg), exec (.add (regWord d) (regWord r)) s =
    .next { s with
      x := s.x.write d (BitVec.ofInt 32 ((s.x.read d).toInt + (s.x.read r).toInt))
      pc := s.pc + 3
      outBeat := none }) ∧
  (∀ (s : State) (dst src : Word), ¬ RegIndexValid dst →
    exec (.add dst src) s = .next (erroredFrom s .outOfRange .regIndex 20 dst)) ∧
  (∀ (s : State) (d : Reg) (src : Word), ¬ RegIndexValid src →
    exec (.add (regWord d) src) s = .next (erroredFrom s .outOfRange .regIndex 20 src)) ∧
  TruncatedFaults 20 2

/-- R111. -/
def Obligations.SubWritesWrappedDifference : Prop :=
  (∀ dst src rest, decode (21 :: dst :: src :: rest) = .ok (.sub dst src, rest)) ∧
  (∀ (s : State) (d r : Reg), exec (.sub (regWord d) (regWord r)) s =
    .next { s with
      x := s.x.write d (BitVec.ofInt 32 ((s.x.read d).toInt - (s.x.read r).toInt))
      pc := s.pc + 3
      outBeat := none }) ∧
  (∀ (s : State) (dst src : Word), ¬ RegIndexValid dst →
    exec (.sub dst src) s = .next (erroredFrom s .outOfRange .regIndex 21 dst)) ∧
  (∀ (s : State) (d : Reg) (src : Word), ¬ RegIndexValid src →
    exec (.sub (regWord d) src) s = .next (erroredFrom s .outOfRange .regIndex 21 src)) ∧
  TruncatedFaults 21 2

/-- R112: the sum and the difference are also those of the unsigned values modulo 2^32, and no overflow is
reported: RUN_STATE and the fault record stay. -/
def Obligations.ArithmeticWrapsUnreported : Prop :=
  ∀ (s : State) (d r : Reg),
    (∃ t, exec (.add (regWord d) (regWord r)) s = .next t ∧
      (t.x.read d).toNat = ((s.x.read d).toNat + (s.x.read r).toNat) % 2 ^ 32 ∧
      t.x.read d = BitVec.ofInt 32 ((s.x.read d).toInt + (s.x.read r).toInt) ∧
      t.runState = s.runState ∧ t.err = s.err) ∧
    (∃ t, exec (.sub (regWord d) (regWord r)) s = .next t ∧
      (t.x.read d).toNat = ((s.x.read d).toNat + (2 ^ 32 - (s.x.read r).toNat)) % 2 ^ 32 ∧
      t.x.read d = BitVec.ofInt 32 ((s.x.read d).toInt - (s.x.read r).toInt) ∧
      t.runState = s.runState ∧ t.err = s.err)

/-- R120. -/
def Obligations.PushPutsRegisterOnTop : Prop :=
  (∀ src rest, decode (30 :: src :: rest) = .ok (.push src, rest)) ∧
  (∀ (s : State) (r : Reg), s.params.stackDepth ≠ .finite s.stack.length →
    exec (.push (regWord r)) s =
      .next { s with stack := s.stack ++ [s.x.read r], pc := s.pc + 2, outBeat := none }) ∧
  (∀ (s : State) (r : Reg), s.params.stackDepth = .finite s.stack.length →
    exec (.push (regWord r)) s = .next (erroredFrom s .stackOverflow .none 30 0)) ∧
  (∀ (s : State) (src : Word), ¬ RegIndexValid src →
    exec (.push src) s = .next (erroredFrom s .outOfRange .regIndex 30 src)) ∧
  TruncatedFaults 30 1

/-- R121. -/
def Obligations.PopTakesTopIntoRegister : Prop :=
  (∀ dst rest, decode (31 :: dst :: rest) = .ok (.pop dst, rest)) ∧
  (∀ (s : State) (d : Reg) (below : List Word) (v : Word), s.stack = below ++ [v] →
    exec (.pop (regWord d)) s =
      .next { s with x := s.x.write d v, stack := below, pc := s.pc + 2, outBeat := none }) ∧
  (∀ (s : State) (d : Reg), s.stack = [] →
    exec (.pop (regWord d)) s = .next (erroredFrom s .stackUnderflow .none 31 0)) ∧
  (∀ (s : State) (dst : Word), ¬ RegIndexValid dst →
    exec (.pop dst) s = .next (erroredFrom s .outOfRange .regIndex 31 dst)) ∧
  TruncatedFaults 31 1

/-- R122: a POP after a PUSH, at any later state whose stack is the one the PUSH left, restores into d the
value r held at the PUSH, and the stack of before. -/
def Obligations.PushThenPopRestores : Prop :=
  ∀ (s : State) (r d : Reg), s.params.stackDepth ≠ .finite s.stack.length →
    ∃ t, exec (.push (regWord r)) s = .next t ∧
      ∀ u : State, u.stack = t.stack →
        ∃ v, exec (.pop (regWord d)) u = .next v ∧ v.x = u.x.write d (s.x.read r) ∧ v.stack = s.stack

/-- R130. -/
def Obligations.JpJumpsToTarget : Prop :=
  (∀ addr rest, decode (40 :: addr :: rest) = .ok (.jp addr, rest)) ∧
  (∀ (s : State) (addr : Word), 0 ≤ addr.toInt → addr.toInt < s.progLen →
    exec (.jp addr) s = .next { s with pc := addr, outBeat := none }) ∧
  (∀ (s : State) (addr : Word), addr.toInt < 0 ∨ s.progLen ≤ addr.toInt →
    exec (.jp addr) s = .next (erroredFrom s .outOfRange .jumpTarget 40 addr)) ∧
  TruncatedFaults 40 1

/-- R131. -/
def Obligations.JlJumpsWhenSignedLess : Prop :=
  (∀ a b addr rest, decode (41 :: a :: b :: addr :: rest) = .ok (.jl a b addr, rest)) ∧
  (∀ (s : State) (a b : Reg) (addr : Word), (s.x.read a).toInt < (s.x.read b).toInt →
    0 ≤ addr.toInt → addr.toInt < s.progLen →
    exec (.jl (regWord a) (regWord b) addr) s = .next { s with pc := addr, outBeat := none }) ∧
  (∀ (s : State) (a b : Reg) (addr : Word), (s.x.read a).toInt < (s.x.read b).toInt →
    addr.toInt < 0 ∨ s.progLen ≤ addr.toInt →
    exec (.jl (regWord a) (regWord b) addr) s =
      .next (erroredFrom s .outOfRange .jumpTarget 41 addr)) ∧
  (∀ (s : State) (a b : Reg) (addr : Word), (s.x.read b).toInt ≤ (s.x.read a).toInt →
    exec (.jl (regWord a) (regWord b) addr) s = .next { s with pc := s.pc + 4, outBeat := none }) ∧
  (∀ (s : State) (a b addr : Word), ¬ RegIndexValid a →
    exec (.jl a b addr) s = .next (erroredFrom s .outOfRange .regIndex 41 a)) ∧
  (∀ (s : State) (a : Reg) (b addr : Word), ¬ RegIndexValid b →
    exec (.jl (regWord a) b addr) s = .next (erroredFrom s .outOfRange .regIndex 41 b)) ∧
  TruncatedFaults 41 3

/-- R132. -/
def Obligations.CallPushesReturnAddress : Prop :=
  (∀ addr rest, decode (42 :: addr :: rest) = .ok (.call addr, rest)) ∧
  (∀ (s : State) (addr : Word), 0 ≤ addr.toInt → addr.toInt < s.progLen →
    s.params.stackDepth ≠ .finite s.stack.length →
    exec (.call addr) s =
      .next { s with stack := s.stack ++ [s.pc + 2], pc := addr, outBeat := none }) ∧
  (∀ (s : State) (addr : Word), addr.toInt < 0 ∨ s.progLen ≤ addr.toInt →
    exec (.call addr) s = .next (erroredFrom s .outOfRange .jumpTarget 42 addr)) ∧
  (∀ (s : State) (addr : Word), 0 ≤ addr.toInt → addr.toInt < s.progLen →
    s.params.stackDepth = .finite s.stack.length →
    exec (.call addr) s = .next (erroredFrom s .stackOverflow .none 42 0)) ∧
  TruncatedFaults 42 1

/-- R133. -/
def Obligations.RetJumpsToTopOfStack : Prop :=
  (∀ rest, decode (50 :: rest) = .ok (.ret, rest)) ∧
  (∀ (s : State) (below : List Word) (t : Word), s.stack = below ++ [t] →
    0 ≤ t.toInt → t.toInt < s.progLen →
    exec .ret s = .next { s with stack := below, pc := t, outBeat := none }) ∧
  (∀ (s : State) (below : List Word) (t : Word), s.stack = below ++ [t] →
    t.toInt < 0 ∨ s.progLen ≤ t.toInt →
    exec .ret s = .next (erroredFrom s .outOfRange .retTarget 50 t)) ∧
  (∀ s : State, s.stack = [] → exec .ret s = .next (erroredFrom s .stackUnderflow .none 50 0))

/-- R134: a CALL at address c, and a RET at any later state of the same program whose stack is the one the
CALL left, give pc = c + 2 and the stack of before the CALL. Where c + 2 = PROG_LEN (the CALL is the last
instruction) there is no such address, and the RET enters RET_TARGET (R132). -/
def Obligations.CallThenRetReturns : Prop :=
  ∀ (s : State) (addr : Word), Memory.wf s.program → 0 ≤ addr.toInt → addr.toInt < s.progLen →
    s.params.stackDepth ≠ .finite s.stack.length → s.pc.toNat + 2 ≤ s.progLen →
    ∃ t, exec (.call addr) s = .next t ∧
      ∀ u : State, u.stack = t.stack → u.program = s.program →
        (s.pc.toNat + 2 < s.progLen →
          ∃ v, exec .ret u = .next v ∧ v.pc.toNat = s.pc.toNat + 2 ∧ v.stack = s.stack) ∧
        (s.pc.toNat + 2 = s.progLen →
          exec .ret u = .next (erroredFrom u .outOfRange .retTarget 50 (BitVec.ofNat 32 s.progLen)))

/-- R150. -/
def Obligations.PrintEmitsRegister : Prop :=
  (∀ src rest, decode (60 :: src :: rest) = .ok (.print src, rest)) ∧
  (∀ (s : State) (r : Reg), exec (.print (regWord r)) s =
    .next { s with out := s.out ++ [s.x.read r], outBeat := some (s.x.read r), pc := s.pc + 2 }) ∧
  (∀ (s : State) (src : Word), ¬ RegIndexValid src →
    exec (.print src) s = .next (erroredFrom s .outOfRange .regIndex 60 src)) ∧
  TruncatedFaults 60 1

/-- R152: HALT, its effect and that it is the only way to HALTED. -/
def Obligations.HaltEndsTheRun : Prop :=
  (∀ rest, decode (255 :: rest) = .ok (.halt, rest)) ∧
  (∀ s : State, exec .halt s = .next { s with runState := .halted, outBeat := none }) ∧
  (∀ s t : State, Ready s → step s = .next t →
    (t.runState = .halted ↔ s.program[s.pc.toNat]? = some 255)) ∧
  (∀ s t : State, s.rst = false → s.runState = .halted → step s = .next t →
    t = { s with outBeat := none })

/-- R24, R73: the valid register operands are the four Words that name the registers, by their number. -/
def Obligations.ValidRegisterOperandsAreFour : Prop :=
  (∀ w : Word, (0 ≤ w.toInt ∧ w.toInt ≤ 3) ↔ ∃ r, w = regWord r) ∧
  (regWord .r0).toInt = 0 ∧ (regWord .r1).toInt = 1 ∧ (regWord .r2).toInt = 2 ∧
  (regWord .r3).toInt = 3

/-- R21: four registers with no aliases: a register reads what was last written to it, and writing one
leaves the others; a register file is its four registers. -/
def Obligations.RegisterFileReadsLastWrite : Prop :=
  (∀ (x : RegFile) (r q : Reg) (v : Word), (x.write r v).read q = if q = r then v else x.read q) ∧
  (∀ x y : RegFile, (∀ r, x.read r = y.read r) → x = y)

/-- R22: an instruction writes no register but the one of the table, a fault writes none, and registers
that the table does not list as read have no influence on anything but themselves. -/
def Obligations.RegistersReadAndWritten : Prop :=
  (∀ (i : Instr) (s t : State), s.runState = .running → exec i s = .next t →
    (∀ r, t.x.read r ≠ s.x.read r → registerWritten i = some (regWord r)) ∧
    (t.runState = .errored → t.x = s.x)) ∧
  (∀ (i : Instr) (s : State) (r : Reg) (v : Word), regWord r ∉ registersRead i →
    ∃ t u, exec i s = .next t ∧ exec i { s with x := s.x.write r v } = .next u ∧
      u.pc = t.pc ∧ u.stack = t.stack ∧ u.out = t.out ∧ u.outBeat = t.outBeat ∧
      u.runState = t.runState ∧ u.err = t.err ∧ u.program = t.program ∧
      ∀ q, q ≠ r → u.x.read q = t.x.read q)

/-- R28 to R30: the stack changes only by one entry at its top, and only by the four instructions that
use it. -/
def Obligations.StackChangesOnlyAtTop : Prop :=
  ∀ (i : Instr) (s t : State), exec i s = .next t →
    t.stack = s.stack ∨
    (∃ v, t.stack = s.stack ++ [v] ∧ (i.opcode = .push ∨ i.opcode = .call)) ∨
    (∃ v, s.stack = t.stack ++ [v] ∧ (i.opcode = .pop ∨ i.opcode = .ret))

/-- R30: no instruction reads an entry other than the top: entries below it can be any others (as many, where
STACK_DEPTH is finite), and they stay what they are. -/
def Obligations.EntriesBelowTopUnread : Prop :=
  ∀ (i : Instr) (s t : State) (below other : List Word) (top : Word),
    (s.params.stackDepth = .unbounded ∨ below.length = other.length) →
    exec i { s with stack := below ++ [top] } = .next t →
    ∃ upper, t.stack = below ++ upper ∧
      exec i { s with stack := other ++ [top] } = .next { t with stack := other ++ upper }

/-- R38, R44: the Output Sequence is empty at reset; a step appends to it exactly its output beat; it has a
beat only when it executes a PRINT, with the value of the PRINT's register, and always then; a fault
leaves it. -/
def Obligations.OutputGrowsOnlyByPrint : Prop :=
  State.reset.out = [] ∧
  (∀ s t : State, s.rst = false → step s = .next t → t.out = s.out ++ t.outBeat.toList) ∧
  (∀ (s t : State) (v : Word), s.rst = false → step s = .next t → t.outBeat = some v →
    ∃ r, s.program[s.pc.toNat]? = some 60 ∧ s.program[s.pc.toNat + 1]? = some (regWord r) ∧
      v = s.x.read r) ∧
  (∀ (s : State) (r : Reg) (rest : List Word), Ready s →
    decode (s.program.drop s.pc.toNat) = .ok (.print (regWord r), rest) →
    ∃ t, step s = .next t ∧ t.out = s.out ++ [s.x.read r]) ∧
  (∀ s t : State, Ready s → step s = .next t → t.runState = .errored → t.out = s.out)

/-- R52: no step writes the Program Store: every address reads as before. The parameters are fixed too. -/
def Obligations.ProgramStoreNeverWritten : Prop :=
  (∀ (i : Instr) (s t : State), exec i s = .next t → t.program = s.program ∧ t.params = s.params) ∧
  (∀ s t : State, step s = .next t →
    (∀ a, memRead a t = memRead a s) ∧ t.progLen = s.progLen ∧ t.params = s.params)

/-- R42, R53: reading at or beyond PROG_LEN is undefined in the Program Store port, below it a read answers
the program Word; no step makes such a read. With a program the spec admits, step answers a next state, also
where the core takes no step: that is the model's own choice, log entry 3 (HALTED, ERRORED, withheld) and log
entry 4 (`rst` asserted). That a longer program may be refused is log entry 7. -/
def Obligations.StepNeverReadsOutsideStore : Prop :=
  (∀ (a : Nat) (s : State), (∃ f, memRead a s = .error f) ↔ s.progLen ≤ a) ∧
  (∀ (a : Nat) (s : State) (w : Word), s.program[a]? = some w → memRead a s = .ok w) ∧
  (∀ s : State, Memory.wf s.program → ∃ t, step s = .next t) ∧
  (∀ (s : State) (f : Fault), step s ≠ .fault f)

/-- Every instruction, with any operands, in any state, has a next state: its own effect or the entry of
one of its faults (R166). -/
def Obligations.EveryInstructionAnswersNext : Prop :=
  ∀ (i : Instr) (s : State), ∃ t, exec i s = .next t ∧
    (t.runState = s.runState ∨ t.runState = .halted ∨
      ∃ code sub value, code ≠ .none ∧ t = erroredFrom s code sub i.opcode.word value)

/-- R165: a step that ends in ERRORED has written RUN_STATE and the record, with ERR_ADDR = pc, and nothing
else; a step that does not has left the record. -/
def Obligations.FaultEntryIsPrecise : Prop :=
  ∀ s t : State, Ready s → step s = .next t →
    (t.runState = .errored →
      ∃ code sub opcode value, code ≠ .none ∧ t = erroredFrom s code sub opcode value) ∧
    (t.runState ≠ .errored → t.err = s.err)

/-- R26: pc after a step: the sequential next address, a control-transfer target, or unchanged. -/
def Obligations.PcAdvancesOrTransfers : Prop :=
  ∀ s t : State, Ready s → step s = .next t →
    (t.runState ≠ .running → t.pc = s.pc) ∧
    (t.runState = .running →
      ∃ i rest, decode (s.program.drop s.pc.toNat) = .ok (i, rest) ∧
        (t.pc = s.pc + BitVec.ofNat 32 (1 + i.opcode.arity) ∨
         (∃ a, (i = .jp a ∨ i = .call a ∨ ∃ p q, i = .jl p q a) ∧ t.pc = a) ∨
         (i = .ret ∧ s.stack.getLast? = some t.pc)))

/-- R31: the run states, their encodings and their transitions. -/
def Obligations.RunStateTransitions : Prop :=
  State.reset.runState = .running ∧
  RunState.running.bits = 0 ∧ RunState.halted.bits = 1 ∧ RunState.errored.bits = 2 ∧
  (∀ r : RunState, r.bits ≠ 3) ∧
  (∀ s t : State, Ready s → step s = .next t →
    (t.runState = .halted ↔ s.program[s.pc.toNat]? = some 255) ∧
    (t.runState = .errored ↔ firstFault s ≠ none)) ∧
  (∀ s t : State, s.rst = false → s.runState ≠ .running → step s = .next t → t.runState = s.runState)

/-- R169, R178: a run that has ended takes no step until reset, and the state it holds stays. That the
model answers this as a next state, and not as a stop, is its own choice: log entry 3. -/
def Obligations.EndedRunStaysUntilReset : Prop :=
  ∀ s : State, s.rst = false → s.runState ≠ .running → step s = .next { s with outBeat := none }

/-- R180: reset at any time, in any state; while `rst` is asserted the core holds the start-of-run state; on
its release the first step of a new run fetches at address 0. That the level is held in the state and that
asserting it acts at once are the model's own choice: log entry 4. -/
def Obligations.ResetHoldsStartOfRun : Prop :=
  (∀ s : State, s.rst = true → step s = .next (startOfRun s)) ∧
  (∀ s : State, hostAct (.setRst true) s = .next (startOfRun { s with rst := true })) ∧
  (∀ s : State, s.rst = true → ∃ t, hostAct (.setRst false) s = .next t ∧
    t = startOfRun { s with rst := false } ∧ t.pc = 0 ∧ t.runState = .running ∧ t.rst = false)

/-- R183: what a run starts from depends on nothing of the run before: only on the program, the parameters
and the level of `stop_req`; so every number of steps from there ends the same. The host actions are the
model's: log entry 4. -/
def Obligations.NoStateSurvivesReset : Prop :=
  ∀ s t : State, s.program = t.program → s.params = t.params → s.stopReq = t.stopReq →
    hostAct (.setRst true) s = hostAct (.setRst true) t ∧
    ∀ (u v : State) (n : Nat), hostAct (.setRst true) s = .next u → hostAct (.setRst true) t = .next v →
      Sys2Proof.core.run n { u with rst := false } = Sys2Proof.core.run n { v with rst := false }

/-- R46: while `stop_req` is asserted no step is taken and no state changes; without the port its level has
no influence; driving it changes no state of the run. The withheld step is answered as a next state, the
model's own choice: log entries 3 and 4. -/
def Obligations.StopRequestWithholdsSteps : Prop :=
  (∀ s : State, s.rst = false → s.params.hasStopReq = true → s.stopReq = true →
    step s = .next { s with outBeat := none }) ∧
  (∀ (s t : State) (level : Bool), s.params.hasStopReq = false → step s = .next t →
    step { s with stopReq := level } = .next { t with stopReq := level }) ∧
  (∀ (s : State) (level : Bool), s.params.hasStopReq = true →
    hostAct (.setStop level) s = .next { s with stopReq := level }) ∧
  (∀ (s : State) (level : Bool), s.params.hasStopReq = false →
    hostAct (.setStop level) s = .refused .noStopPort)

/-- R47, R58, R184: the host loads the program while `rst` is asserted, and the run starts from it; a
Program Store changed while RUNNING is refused. The host actions are the model's: log entries 4 and 9. -/
def Obligations.HostLoadsOnlyOutsideARun : Prop :=
  (∀ (s : State) (ws : List Word), s.rst = true →
    hostAct (.load ws) s = .next (startOfRun { s with program := ws })) ∧
  (∀ (s : State) (ws : List Word), s.rst = false → s.runState = .running →
    hostAct (.load ws) s = .refused .programStoreChanged)

/-- R32, R33, R45: the status and output ports, and the codes they show. -/
def Obligations.PortsShowStateAndCodes : Prop :=
  [ErrCode.none, .stackUnderflow, .invalidInstruction, .outOfRange, .stackOverflow].map ErrCode.bits =
    [0, 1, 2, 3, 4] ∧
  [ErrSub.none, .fetch, .operandFetch, .regIndex, .jumpTarget, .retTarget].map ErrSub.bits =
    [0, 1, 2, 3, 4, 5] ∧
  ∀ s : State, (ports s).runState = s.runState.bits ∧ (ports s).errCode = s.err.code.bits ∧
    (ports s).errSub = s.err.sub.bits ∧ (ports s).errAddr = s.err.addr ∧
    (ports s).errOpcode = s.err.opcode ∧ (ports s).errValue = s.err.value ∧ (ports s).pcO = s.pc ∧
    ((ports s).outValid = true ↔ s.outBeat ≠ none) ∧ (ports s).outData = s.outBeat
end

