-- ==== Sys2Proof/Laws/Decode.lean ====
section
/-! SUPPORT. The opcode map is unambiguous, and the small facts of decoding and encoding. -/

namespace Sys2Proof

@[simp] theorem opcodeOfWord_word (oc : Opcode) : opcodeOfWord oc.word = some oc := by
  cases oc <;> decide

/-- R77: the Words that are opcodes are exactly the twelve. -/
theorem opcodeOfWord_eq_some_iff (w : Word) (oc : Opcode) :
    opcodeOfWord w = some oc ↔ w = oc.word := by
  constructor
  · intro h
    have hw := List.find?_some h
    exact (beq_iff_eq.1 hw).symm
  · rintro rfl
    exact opcodeOfWord_word oc

theorem opcodeOfWord_eq_none_iff (w : Word) : opcodeOfWord w = none ↔ ∀ oc : Opcode, w ≠ oc.word := by
  rw [Option.eq_none_iff_forall_ne_some]
  simp only [ne_eq, opcodeOfWord_eq_some_iff]

/-- R72: no two opcodes share a Word. -/
theorem opcode_word_injective {p q : Opcode} (h : p.word = q.word) : p = q := by
  have hp := opcodeOfWord_word p
  rw [h, opcodeOfWord_word q] at hp
  exact (Option.some.inj hp).symm

/-- R71: the operand Words of an instruction are as many as the arity of its opcode. -/
@[simp] theorem operands_length (i : Instr) : i.operands.length = i.opcode.arity := by
  cases i <;> rfl

/-- R70: an instruction is at most four Words long. -/
theorem encode_length_le (i : Instr) : (encode i).length ≤ 4 := by
  simp only [encode, List.length_cons, operands_length]
  cases i.opcode <;> decide

theorem decode_nil : decode [] = .error .noOpcode := rfl

theorem decode_word (oc : Opcode) (ws : List Word) :
    decode (oc.word :: ws) = decodeOperands oc ws := by
  simp [decode]

/-- Decoding the opcode and exactly its operand Words is the same as decoding the longer list, but for the
rest: a decoder looks at no Word beyond the instruction's own. -/
theorem decodeOperands_take (oc : Opcode) (ws : List Word) :
    (decodeOperands oc (ws.take oc.arity)).map Prod.fst = (decodeOperands oc ws).map Prod.fst := by
  cases oc <;> rcases ws with _ | ⟨_, _ | ⟨_, _ | ⟨_, _⟩⟩⟩ <;> rfl

end Sys2Proof
end

