-- ==== Sys2Proof/Laws/State.lean ====
section
/-! SUPPORT. The state record: one lemma per field of each shared update, and the register file's
read-after-write law. -/

namespace Sys2Proof.Machine

section
variable (e : Effect) (s : State)

@[simp] theorem commit_x : (commit e s).x = applyWrite e.write s.x := rfl
@[simp] theorem commit_pc : (commit e s).pc = nextPc e.next s.pc := rfl
@[simp] theorem commit_stack : (commit e s).stack = e.stack.apply s.stack := rfl
@[simp] theorem commit_out : (commit e s).out = s.out ++ e.emit.toList := rfl
@[simp] theorem commit_outBeat : (commit e s).outBeat = e.emit := rfl
@[simp] theorem commit_runState :
    (commit e s).runState = if e.halt then .halted else s.runState := rfl
@[simp] theorem commit_err : (commit e s).err = s.err := rfl
@[simp] theorem commit_program : (commit e s).program = s.program := rfl
@[simp] theorem commit_rst : (commit e s).rst = s.rst := rfl
@[simp] theorem commit_stopReq : (commit e s).stopReq = s.stopReq := rfl
@[simp] theorem commit_params : (commit e s).params = s.params := rfl
end

section
variable (code : ErrCode) (sub : ErrSub) (op v : Word) (s : State)

@[simp] theorem enterFault_x : (enterFault code sub op v s).x = s.x := rfl
@[simp] theorem enterFault_pc : (enterFault code sub op v s).pc = s.pc := rfl
@[simp] theorem enterFault_stack : (enterFault code sub op v s).stack = s.stack := rfl
@[simp] theorem enterFault_out : (enterFault code sub op v s).out = s.out := rfl
@[simp] theorem enterFault_outBeat : (enterFault code sub op v s).outBeat = none := rfl
@[simp] theorem enterFault_runState : (enterFault code sub op v s).runState = .errored := rfl
@[simp] theorem enterFault_err : (enterFault code sub op v s).err =
    { code := code, sub := sub, addr := s.pc, opcode := op, value := v } := rfl
@[simp] theorem enterFault_program : (enterFault code sub op v s).program = s.program := rfl
@[simp] theorem enterFault_rst : (enterFault code sub op v s).rst = s.rst := rfl
@[simp] theorem enterFault_stopReq : (enterFault code sub op v s).stopReq = s.stopReq := rfl
@[simp] theorem enterFault_params : (enterFault code sub op v s).params = s.params := rfl

/-- The model's fault entry is the one the claims speak of. -/
theorem enterFault_eq_erroredFrom :
    enterFault code sub op v s = erroredFrom s code sub op v := rfl
end

section
variable (s : State)

@[simp] theorem noStep_x : (noStep s).x = s.x := rfl
@[simp] theorem noStep_pc : (noStep s).pc = s.pc := rfl
@[simp] theorem noStep_stack : (noStep s).stack = s.stack := rfl
@[simp] theorem noStep_out : (noStep s).out = s.out := rfl
@[simp] theorem noStep_outBeat : (noStep s).outBeat = none := rfl
@[simp] theorem noStep_runState : (noStep s).runState = s.runState := rfl
@[simp] theorem noStep_err : (noStep s).err = s.err := rfl
@[simp] theorem noStep_program : (noStep s).program = s.program := rfl
@[simp] theorem noStep_rst : (noStep s).rst = s.rst := rfl
@[simp] theorem noStep_stopReq : (noStep s).stopReq = s.stopReq := rfl
@[simp] theorem noStep_params : (noStep s).params = s.params := rfl

@[simp] theorem startOfRun_x : (startOfRun s).x = State.reset.x := rfl
@[simp] theorem startOfRun_pc : (startOfRun s).pc = 0 := rfl
@[simp] theorem startOfRun_stack : (startOfRun s).stack = [] := rfl
@[simp] theorem startOfRun_out : (startOfRun s).out = [] := rfl
@[simp] theorem startOfRun_outBeat : (startOfRun s).outBeat = none := rfl
@[simp] theorem startOfRun_runState : (startOfRun s).runState = .running := rfl
@[simp] theorem startOfRun_err : (startOfRun s).err = FaultRecord.clear := rfl
@[simp] theorem startOfRun_program : (startOfRun s).program = s.program := rfl
@[simp] theorem startOfRun_rst : (startOfRun s).rst = s.rst := rfl
@[simp] theorem startOfRun_stopReq : (startOfRun s).stopReq = s.stopReq := rfl
@[simp] theorem startOfRun_params : (startOfRun s).params = s.params := rfl
end

@[simp] theorem applyWrite_none (x : RegFile) : applyWrite none x = x := rfl
@[simp] theorem applyWrite_some (x : RegFile) (r : Reg) (v : Word) :
    applyWrite (some (r, v)) x = x.write r v := rfl

@[simp] theorem stackOp_keep (st : List Word) : StackOp.apply .keep st = st := rfl
@[simp] theorem stackOp_push (v : Word) (st : List Word) : StackOp.apply (.push v) st = st ++ [v] := rfl
@[simp] theorem stackOp_pop (st : List Word) : StackOp.apply .pop st = st.dropLast := rfl

@[simp] theorem nextPc_seq (n pc : Word) : nextPc (.seq n) pc = pc + n := rfl
@[simp] theorem nextPc_target (t pc : Word) : nextPc (.target t) pc = t := rfl
@[simp] theorem nextPc_stack (t pc : Word) : nextPc (.stack t) pc = t := rfl
@[simp] theorem nextPc_hold (pc : Word) : nextPc .hold pc = pc := rfl

@[simp] theorem read_write_same (x : RegFile) (r : Reg) (v : Word) : (x.write r v).read r = v := by
  cases r <;> rfl

theorem read_write_other (x : RegFile) {q r : Reg} (v : Word) (h : q ≠ r) :
    (x.write r v).read q = x.read q := by
  cases q <;> cases r <;> first | rfl | exact absurd rfl h

/-- The stack's capacity check, for each STACK_DEPTH. -/
theorem stackFull_iff (s : State) :
    stackFull s = true ↔ s.params.stackDepth = .finite s.stack.length := by
  cases h : s.params.stackDepth with
  | unbounded => simp [stackFull, h]
  | finite n => simp only [stackFull, h, decide_eq_true_eq, StackDepth.finite.injEq]; exact eq_comm

/-- A stack with a top is the entries below it and the top. -/
theorem stackTop_eq_some_iff (s : State) (v : Word) :
    stackTop s = some v ↔ s.stack = s.stack.dropLast ++ [v] := by
  unfold stackTop
  constructor
  · intro h
    exact (List.dropLast_append_getLast? v h).symm
  · intro h
    rw [h]
    simp

theorem stackTop_eq_none_iff (s : State) : stackTop s = none ↔ s.stack = [] :=
  List.getLast?_eq_none_iff

end Sys2Proof.Machine
end

