-- ==== Sys2Proof/Laws/Memory.lean ====
section
/-! SUPPORT. The Program Store: what a read answers, that every operation on it keeps its form, and what
the fetch unit reads. -/

namespace Sys2Proof.Machine

theorem memRead_lt (s : State) {a : Nat} (h : a < s.program.length) :
    memRead a s = .ok s.program[a] := by
  simp [memRead, List.getElem?_eq_getElem h]

theorem memRead_ge (s : State) {a : Nat} (h : s.program.length ≤ a) :
    memRead a s = .error (.noSuchProgramWord a) := by
  simp [memRead, List.getElem?_eq_none h]

theorem reset_program_wf : Memory.wf State.reset.program := by decide

theorem overlay_length (m : Memory) (a : Nat) (ws : List Word) :
    (m.overlay a ws).length = max m.length (a + ws.length) := by
  simp [Memory.overlay]
  omega

/-- Placing Words keeps the bound on PROG_LEN where they lie below it. -/
theorem overlay_wf {m : Memory} {a : Nat} {ws : List Word} (h : m.wf)
    (ha : a + ws.length ≤ Config.maxProgLen) : (m.overlay a ws).wf := by
  simp [Memory.wf, overlay_length] at *
  omega

/-- The Words placed are the Words read from that address on. -/
theorem overlay_drop (m : Memory) (a : Nat) (ws : List Word) :
    (m.overlay a ws).drop a = ws ++ m.drop (a + ws.length) := by
  have h : ((m ++ List.replicate (a - m.length) (0 : Word)).take a).length = a := by
    simp; omega
  rw [Memory.overlay, List.append_assoc, List.drop_left' h]

/-- A host action that loads an admitted program keeps the form, and no other action touches it. -/
theorem hostAct_program_wf {act : HostAction} {s t : State} (h : s.program.wf)
    (hl : ∀ ws, act = .load ws → Memory.wf ws) (ht : hostAct act s = .next t) : t.program.wf := by
  rcases act with ws | l | l <;> simp only [hostAct, hostLoad, hostSetRst, hostSetStop] at ht <;>
    repeat' split at ht
  all_goals cases ht
  all_goals first | exact h | exact hl _ rfl

/-- The fetch unit reads the Words that are there, and never one that is not. -/
theorem fetchWords_eq (s : State) (a n : Nat) :
    fetchWords s a n = .ok ((s.program.drop a).take n) := by
  induction n generalizing a with
  | zero => simp [fetchWords]
  | succ n ih =>
    unfold fetchWords
    split
    · next h =>
      rw [memRead_lt s h, ih]
      simp [List.drop_eq_getElem_cons h]
    · next h =>
      have : s.program.drop a = [] := List.drop_eq_nil_of_le (Nat.le_of_not_lt h)
      simp [this]

/-- Fetching an instruction never asks for a Word outside the Program Store. -/
theorem fetchInstr_ok (s : State) : ∃ ws, fetchInstr s = .ok ws := by
  simp only [fetchInstr, fetchWords_eq]
  split
  · next h => cases h
  · exact ⟨_, rfl⟩
  · split <;> exact ⟨_, rfl⟩

end Sys2Proof.Machine
end

