-- ==== Sys2Proof/Laws/Operands.lean ====
section
/-! SUPPORT. What the operand checks can do: a register operand either names a register or raises
OutOfRange/REG_INDEX, and a target is either valid or raises OutOfRange/JUMP_TARGET. -/

namespace Sys2Proof.Machine

@[simp] theorem regOfWord_regWord (r : Reg) : regOfWord (regWord r) = some r := by
  cases r <;> decide

/-- R24: an operand that names no register is one that is not valid. -/
theorem regOfWord_eq_none_iff (w : Word) : regOfWord w = none ↔ ¬ RegIndexValid w := by
  constructor
  · intro h hv
    have hw : w = 0 ∨ w = 1 ∨ w = 2 ∨ w = 3 := by
      obtain ⟨h0, h3⟩ := hv
      have : w.toInt = 0 ∨ w.toInt = 1 ∨ w.toInt = 2 ∨ w.toInt = 3 := by omega
      rcases this with e | e | e | e
      · exact .inl (BitVec.eq_of_toInt_eq (by rw [e]; decide))
      · exact .inr (.inl (BitVec.eq_of_toInt_eq (by rw [e]; decide)))
      · exact .inr (.inr (.inl (BitVec.eq_of_toInt_eq (by rw [e]; decide))))
      · exact .inr (.inr (.inr (BitVec.eq_of_toInt_eq (by rw [e]; decide))))
    rcases hw with rfl | rfl | rfl | rfl <;> revert h <;> decide
  · intro hv
    unfold regOfWord
    split_ifs <;> first | rfl | (subst_vars; exact absurd (by decide) hv)

/-- A register operand that is found is that register's Word. -/
theorem regOfWord_eq_some_iff (w : Word) (r : Reg) : regOfWord w = some r ↔ w = regWord r := by
  constructor
  · unfold regOfWord
    split_ifs <;> intro h <;> cases h <;> simp_all only [regWord]
  · rintro rfl
    exact regOfWord_regWord r

theorem withReg_valid (oc : Opcode) (r : Reg) (s : State) (run : Reg → Result) :
    withReg oc (regWord r) s run = run r := by
  simp [withReg]

theorem withReg_invalid (oc : Opcode) {w : Word} (s : State) (run : Reg → Result)
    (h : ¬ RegIndexValid w) :
    withReg oc w s run = .next (enterFault .outOfRange .regIndex oc.word w s) := by
  simp [withReg, (regOfWord_eq_none_iff w).2 h, raiseOutOfRange]

/-- All that a register operand check can do. -/
theorem withReg_cases (oc : Opcode) (w : Word) (s : State) (run : Reg → Result) :
    (∃ r, w = regWord r ∧ withReg oc w s run = run r) ∨
    (¬ RegIndexValid w ∧
      withReg oc w s run = .next (enterFault .outOfRange .regIndex oc.word w s)) := by
  rcases h : regOfWord w with _ | r
  · exact .inr ⟨(regOfWord_eq_none_iff w).1 h, withReg_invalid _ _ _ ((regOfWord_eq_none_iff w).1 h)⟩
  · obtain rfl := (regOfWord_eq_some_iff w r).1 h
    exact .inl ⟨r, rfl, withReg_valid ..⟩

/-- All that a target check can do. -/
theorem withTarget_cases (oc : Opcode) (t : Word) (s : State) (run : Result) :
    (ValidTarget s t ∧ withTarget oc t s run = run) ∨
    (¬ ValidTarget s t ∧
      withTarget oc t s run = .next (enterFault .outOfRange .jumpTarget oc.word t s)) := by
  by_cases h : ValidTarget s t
  · exact .inl ⟨h, if_pos h⟩
  · exact .inr ⟨h, if_neg h⟩

/-- R87: a valid target is the address of a program Word. -/
theorem validTarget_toNat_lt {s : State} {t : Word} (h : ValidTarget s t) : t.toNat < s.progLen := by
  obtain ⟨h0, h1⟩ := h
  have := BitVec.toInt_eq_toNat_cond t
  have := t.isLt
  split at * <;> omega

end Sys2Proof.Machine
end

