-- ==== Sys2Proof/Laws/PerInstr.lean ====
section
/-! SUPPORT. For every instruction: its first Word is its opcode's, its length is 1 + arity (spec
30_encoding R70, R75), and it is well-formed exactly when each register operand is valid (R24). -/

namespace Sys2Proof.Laws.EncodeShape

/-- The shape of an instruction's Words, and what its well-formedness checks. -/
def Statement (i : Instr) : Prop :=
  opcodeOfWord ((encode i).headD 0) = some i.opcode ∧
  (encode i).length = 1 + i.opcode.arity ∧
  (i.wf = true ↔ ∀ w ∈ Machine.registerOperands i, RegIndexValid w)

theorem movr (dst src : Word) : Statement (.movr dst src) := by
  simp [Statement, encode, Instr.opcode, opcodeOfWord_word, Instr.operands, Opcode.arity, Instr.wf, Machine.registerOperands]
theorem movv (dst literal : Word) : Statement (.movv dst literal) := by
  simp [Statement, encode, Instr.opcode, opcodeOfWord_word, Instr.operands, Opcode.arity, Instr.wf, Machine.registerOperands]
theorem add (dst src : Word) : Statement (.add dst src) := by
  simp [Statement, encode, Instr.opcode, opcodeOfWord_word, Instr.operands, Opcode.arity, Instr.wf, Machine.registerOperands]
theorem sub (dst src : Word) : Statement (.sub dst src) := by
  simp [Statement, encode, Instr.opcode, opcodeOfWord_word, Instr.operands, Opcode.arity, Instr.wf, Machine.registerOperands]
theorem push (src : Word) : Statement (.push src) := by
  simp [Statement, encode, Instr.opcode, opcodeOfWord_word, Instr.operands, Opcode.arity, Instr.wf, Machine.registerOperands]
theorem pop (dst : Word) : Statement (.pop dst) := by
  simp [Statement, encode, Instr.opcode, opcodeOfWord_word, Instr.operands, Opcode.arity, Instr.wf, Machine.registerOperands]
theorem jp (addr : Word) : Statement (.jp addr) := by
  simp [Statement, encode, Instr.opcode, opcodeOfWord_word, Instr.operands, Opcode.arity, Instr.wf, Machine.registerOperands]
theorem jl (a b addr : Word) : Statement (.jl a b addr) := by
  simp [Statement, encode, Instr.opcode, opcodeOfWord_word, Instr.operands, Opcode.arity, Instr.wf, Machine.registerOperands]
theorem call (addr : Word) : Statement (.call addr) := by
  simp [Statement, encode, Instr.opcode, opcodeOfWord_word, Instr.operands, Opcode.arity, Instr.wf, Machine.registerOperands]
theorem ret : Statement .ret := by
  simp [Statement, encode, Instr.opcode, opcodeOfWord_word, Instr.operands, Opcode.arity, Instr.wf, Machine.registerOperands]
theorem print (src : Word) : Statement (.print src) := by
  simp [Statement, encode, Instr.opcode, opcodeOfWord_word, Instr.operands, Opcode.arity, Instr.wf, Machine.registerOperands]
theorem halt : Statement .halt := by
  simp [Statement, encode, Instr.opcode, opcodeOfWord_word, Instr.operands, Opcode.arity, Instr.wf, Machine.registerOperands]

end Sys2Proof.Laws.EncodeShape
end

