-- ==== Sys2Proof/Laws/Step.lean ====
section
/-! SUPPORT. All that a step can do when it is taken and when it is not. -/

namespace Sys2Proof.Machine

theorem step_reset (s : State) (h : s.rst = true) : step s = .next (startOfRun s) := by
  simp [step, cycle, h]

theorem step_ended (s : State) (hr : s.rst = false) (h : Ended s) : step s = .next (noStep s) := by
  unfold Ended at h
  cases hs : s.runState <;> simp_all [step, cycle]

theorem step_stopped (s : State) (hr : s.rst = false) (hs : s.runState = .running)
    (hp : stopRequested s = true) : step s = .next (noStep s) := by
  simp [step, cycle, hr, hs, hp]

theorem step_ready {s : State} (h : Ready s) : step s = runInstr s := by
  obtain ⟨h1, h2, h3, h4⟩ := h
  simp only [step, cycle, h1, h2, h3, h4]
  simp

/-- The step of a state is a reset, no step, an instruction cycle, or the refusal of a program that is too
long. -/
theorem step_cases (s : State) :
    (s.rst = true ∧ step s = .next (startOfRun s)) ∨
    (s.rst = false ∧ (Ended s ∨ stopRequested s = true) ∧ step s = .next (noStep s)) ∨
    (Ready s ∧ step s = runInstr s) ∨
    (¬ Memory.wf s.program ∧ step s = .refused .programTooLong) := by
  by_cases hr : s.rst = true
  · exact .inl ⟨hr, step_reset s hr⟩
  simp only [Bool.not_eq_true] at hr
  by_cases hs : s.runState = .running
  · by_cases hp : stopRequested s = true
    · exact .inr (.inl ⟨hr, .inr hp, step_stopped s hr hs hp⟩)
    · by_cases hw : Memory.wf s.program
      · have h : Ready s := ⟨hr, hs, by simpa using hp, hw⟩
        exact .inr (.inr (.inl ⟨h, step_ready h⟩))
      · refine .inr (.inr (.inr ⟨hw, ?_⟩))
        simp only [step, cycle, hr, hs]
        simp [hp, hw]
  · exact .inr (.inl ⟨hr, .inl hs, step_ended s hr hs⟩)

end Sys2Proof.Machine
end

