-- ==== Sys2Proof/Machine/Assembly.lean ====
section
/-! DEFINITION. The written forms of an instruction and of a program (spec 30_encoding R95, R97). Nothing
of the step depends on them. -/

namespace Sys2Proof.Machine

/-- R72: the mnemonic, in upper case. -/
def mnemonicText : Opcode → String
  | .movr => "MOVR"
  | .movv => "MOVV"
  | .add => "ADD"
  | .sub => "SUB"
  | .push => "PUSH"
  | .pop => "POP"
  | .jp => "JP"
  | .jl => "JL"
  | .call => "CALL"
  | .ret => "RET"
  | .print => "PRINT"
  | .halt => "HALT"

/-- R95: a decimal integer, a negative one with a leading `-`. -/
def wordText (w : Word) : String := toString w.toInt

/-- R95: `r` followed by the index. -/
def regText (w : Word) : String := "r" ++ wordText w

/-- R95: the operands, registers as `r0` to `r3`, literals and addresses in decimal. -/
def operandTexts : Instr → List String
  | .movr dst src => [regText dst, regText src]
  | .movv dst literal => [regText dst, wordText literal]
  | .add dst src => [regText dst, regText src]
  | .sub dst src => [regText dst, regText src]
  | .push src => [regText src]
  | .pop dst => [regText dst]
  | .jp addr => [wordText addr]
  | .jl a b addr => [regText a, regText b, wordText addr]
  | .call addr => [wordText addr]
  | .ret => []
  | .print src => [regText src]
  | .halt => []

/-- Texts with a separator between each two. -/
def joinTexts (sep : String) : List String → String
  | [] => ""
  | [t] => t
  | t :: ts => t ++ sep ++ joinTexts sep ts

/-- R95: one instruction, the mnemonic and then its operands separated by commas. -/
def instrText (i : Instr) : String :=
  match operandTexts i with
  | [] => mnemonicText i.opcode
  | ts => mnemonicText i.opcode ++ " " ++ joinTexts "," ts

/-- R95: instructions in a line, separated by `;`. -/
def lineText (is : List Instr) : String := joinTexts "; " (is.map instrText)

/-- R97: the program text, decimal integers separated by `,`. -/
def programText (m : Memory) : String := joinTexts "," (m.map wordText)

end Sys2Proof.Machine
end

