-- ==== Sys2Proof/Tests/Slice0.lean ====
section
/-! SUPPORT. The model's own tests. Expected results come from the spec's own examples and vectors
(95_test_vectors, named in each test) and its encodings (30_encoding R72); the witnesses show states and
operands that meet the hypotheses of the statements, at the ends of their ranges. -/

namespace Sys2Proof.Tests

open Sys2Proof.Machine

/-- A running core with a program, registers and a stack; the rest as right after reset. -/
def boot (program : List Word) (x : RegFile := ⟨0, 0, 0, 0⟩) (stack : List Word := [])
    (depth : StackDepth := .unbounded) (pc : Word := 0) : State :=
  { State.reset with
    program := program, x := x, stack := stack, pc := pc
    params := { stackDepth := depth, hasStopReq := false } }

/-- The next state, if that is what was answered. -/
def nextOf (r : Result) : Option State :=
  match r with
  | .next t => some t
  | .fault _ => none
  | .refused _ => none

/-- The next state of one step. -/
def stepOf (s : State) : Option State := nextOf (step s)

/-- How a step ends when it faults: the record, with RUN_STATE and pc. -/
def faultOf (s : State) : Option (RunState × Word × FaultRecord) :=
  (stepOf s).map fun t => (t.runState, t.pc, t.err)

/-! Well-formedness: one ill-formed term for each check. -/

theorem test_wf_movr : (Instr.movr 3 0).wf = true ∧ (Instr.movr 4 0).wf = false ∧
    (Instr.movr 0 (-1)).wf = false := by decide
theorem test_wf_movv : (Instr.movv 0 4).wf = true ∧ (Instr.movv 4 0).wf = false := by decide
theorem test_wf_add : (Instr.add 4 0).wf = false ∧ (Instr.add 0 4).wf = false := by decide
theorem test_wf_sub : (Instr.sub (-3) 0).wf = false ∧ (Instr.sub 0 4).wf = false := by decide
theorem test_wf_push : (Instr.push 3).wf = true ∧ (Instr.push 4).wf = false := by decide
theorem test_wf_pop : (Instr.pop 7).wf = false := by decide
theorem test_wf_jl : (Instr.jl 0 3 99).wf = true ∧ (Instr.jl 4 0 0).wf = false ∧
    (Instr.jl 0 4 0).wf = false := by decide
theorem test_wf_print : (Instr.print 4).wf = false := by decide
theorem test_wf_unchecked : (Instr.jp (-1)).wf = true ∧ (Instr.call (-1)).wf = true ∧
    Instr.ret.wf = true ∧ Instr.halt.wf = true := by decide

/-! Decoding: Words in hexadecimal from the opcode map (R72), operands in the order of R71. -/

theorem test_decode_movr : decode [0x0000000A, 0, 2] = .ok (.movr 0 2, []) := by rfl
theorem test_decode_movv : decode [0x0000000B, 1, 42, 60] = .ok (.movv 1 42, [60]) := by rfl
theorem test_decode_add : decode [0x00000014, 0, 1] = .ok (.add 0 1, []) := by rfl
theorem test_decode_sub : decode [0x00000015, 2, 3] = .ok (.sub 2 3, []) := by rfl
theorem test_decode_push : decode [0x0000001E, 3] = .ok (.push 3, []) := by rfl
theorem test_decode_pop : decode [0x0000001F, 2] = .ok (.pop 2, []) := by rfl
theorem test_decode_jp : decode [0x00000028, 5] = .ok (.jp 5, []) := by rfl
theorem test_decode_jl : decode [0x00000029, 2, 0, 9] = .ok (.jl 2 0 9, []) := by rfl
theorem test_decode_call : decode [0x0000002A, 17] = .ok (.call 17, []) := by rfl
theorem test_decode_ret : decode [0x00000032] = .ok (.ret, []) := by rfl
theorem test_decode_print : decode [0x0000003C, 1] = .ok (.print 1, []) := by rfl
theorem test_decode_halt : decode [0x000000FF] = .ok (.halt, []) := by rfl

/-- R77: the whole Word is compared. -/
theorem test_decode_illegal : decode [0x10A, 0, 0] = .error (.illegalOpcode 0x10A) ∧
    decode [0x1FF] = .error (.illegalOpcode 0x1FF) ∧
    decode [0x100000FF] = .error (.illegalOpcode 0x100000FF) ∧
    decode [0xFFFFFFFF] = .error (.illegalOpcode 0xFFFFFFFF) ∧
    decode [0] = .error (.illegalOpcode 0) := by
  refine ⟨?_, ?_, ?_, ?_, ?_⟩ <;> rfl

theorem test_decode_truncated : decode [11, 1] = .error (.missingOperand 11 2) ∧
    decode [41] = .error (.missingOperand 41 1) ∧ decode [] = .error .noOpcode := by
  refine ⟨?_, ?_, ?_⟩ <;> rfl

/-- The rows of the opcode table, all operand Words zero, are read as their instructions. -/
theorem test_table_words : decodeTableWord 32 0xA = some (.movr 0 0) ∧
    decodeTableWord 32 0x29 = some (.jl 0 0 0) ∧
    decodeTableWord 96 (11 + 1 * 2 ^ 32 + 42 * 2 ^ 64) = some (.movv 1 42) ∧
    decodeTableWord 32 0 = none := by decide

/-! One step each, from 95_test_vectors. -/

/-- DM1 -/
theorem test_movr : (stepOf (boot [10, 0, 2] ⟨0, 0, 7, 0⟩)).map (fun t => (t.x, t.pc)) =
    some (⟨7, 0, 7, 0⟩, 3) := by decide
/-- DM9: dst is checked before src -/
theorem test_movr_bad_dst_first : faultOf (boot [10, 5, 9]) =
    some (.errored, 0, ⟨.outOfRange, .regIndex, 0, 10, 5⟩) := by decide
/-- DM4 -/
theorem test_movv_most_negative : (stepOf (boot [11, 0, 0x80000000])).map (fun t => (t.x, t.pc)) =
    some (⟨0x80000000, 0, 0, 0⟩, 3) := by decide
/-- DM11: operand fetch before the register check -/
theorem test_movv_truncated_first : faultOf (boot [11, 9]) =
    some (.errored, 0, ⟨.outOfRange, .operandFetch, 0, 11, 2⟩) := by decide
/-- AR3 -/
theorem test_add_wraps : (stepOf (boot [20, 0, 1] ⟨2147483647, 1, 0, 0⟩)).map
    (fun t => (t.x, t.runState)) = some (⟨0x80000000, 1, 0, 0⟩, .running) := by decide
/-- AR2: dst = src doubles -/
theorem test_add_doubles : (stepOf (boot [20, 0, 0] ⟨5, 0, 0, 0⟩)).map (fun t => (t.x, t.pc)) =
    some (⟨10, 0, 0, 0⟩, 3) := by decide
/-- AR7 -/
theorem test_sub : (stepOf (boot [21, 0, 1] ⟨3, 1, 0, 0⟩)).map (fun t => (t.x, t.pc)) =
    some (⟨2, 1, 0, 0⟩, 3) := by decide
/-- AR12 -/
theorem test_sub_wraps : (stepOf (boot [21, 0, 1] ⟨2147483647, 0xFFFFFFFF, 0, 0⟩)).map (·.x) =
    some ⟨0x80000000, 0xFFFFFFFF, 0, 0⟩ := by decide
/-- ST7 -/
theorem test_push_last_entry : (stepOf (boot [30, 0] ⟨6, 0, 0, 0⟩ [5] (.finite 2))).map
    (fun t => (t.stack, t.pc)) = some ([5, 6], 2) := by decide
/-- ST6 -/
theorem test_push_overflow : (stepOf (boot [30, 0] ⟨6, 0, 0, 0⟩ [5] (.finite 1))).map
    (fun t => (t.stack, t.err)) = some ([5], ⟨.stackOverflow, .none, 0, 30, 0⟩) := by decide
/-- ST3 -/
theorem test_pop : (stepOf (boot [31, 0] ⟨9, 0, 0, 0⟩ [1, 2])).map (fun t => (t.x, t.stack, t.pc)) =
    some (⟨2, 0, 0, 0⟩, [1], 2) := by decide
/-- ST5: the register check before the stack -/
theorem test_pop_bad_register_first : faultOf (boot [31, 7]) =
    some (.errored, 0, ⟨.outOfRange, .regIndex, 0, 31, 7⟩) := by decide
/-- CT1 -/
theorem test_jp : (stepOf (boot [40, 5, 0, 0, 0, 255])).map (·.pc) = some 5 := by decide
/-- CT3 -/
theorem test_jp_negative : faultOf (boot [40, 0xFFFFFFFF]) =
    some (.errored, 0, ⟨.outOfRange, .jumpTarget, 0, 40, 0xFFFFFFFF⟩) := by decide
/-- CT8 -/
theorem test_jl_signed : (stepOf (boot [41, 0, 1, 5, 255, 255] ⟨0x80000000, 2147483647, 0, 0⟩)).map
    (·.pc) = some 5 := by decide
/-- CT10: not taken, the target is not checked -/
theorem test_jl_not_taken : (stepOf (boot [41, 0, 1, 99, 255] ⟨1, 0, 0, 0⟩)).map
    (fun t => (t.pc, t.runState)) = some (4, .running) := by decide
/-- CT16: the return address may be PROG_LEN -/
theorem test_call_at_end : (stepOf (boot [255, 42, 0] ⟨0, 0, 0, 0⟩ [] .unbounded 1)).map
    (fun t => (t.stack, t.pc)) = some ([3], 0) := by decide
/-- CT18: the target before the stack -/
theorem test_call_target_first : faultOf (boot [42, 7] ⟨0, 0, 0, 0⟩ [5] (.finite 1)) =
    some (.errored, 0, ⟨.outOfRange, .jumpTarget, 0, 42, 7⟩) := by decide
/-- CT23 -/
theorem test_ret : (stepOf (boot [50, 255] ⟨0, 0, 0, 0⟩ [9, 1])).map (fun t => (t.stack, t.pc)) =
    some ([9], 1) := by decide
/-- CT22 -/
theorem test_ret_keeps_bad_target : (stepOf (boot [50, 255] ⟨0, 0, 0, 0⟩ [0xFFFFFFFB])).map
    (fun t => (t.stack, t.err)) = some ([0xFFFFFFFB], ⟨.outOfRange, .retTarget, 0, 50, 0xFFFFFFFB⟩) := by
  decide
/-- OH1 -/
theorem test_print : (stepOf (boot [60, 1] ⟨0, 42, 0, 0⟩)).map (fun t => (t.out, t.outBeat, t.pc)) =
    some ([42], some 42, 2) := by decide
/-- OH6 -/
theorem test_print_truncated : faultOf (boot [60]) =
    some (.errored, 0, ⟨.outOfRange, .operandFetch, 0, 60, 1⟩) := by decide
/-- OH5 -/
theorem test_halt : stepOf (boot [255]) = some { boot [255] with runState := .halted } := by decide
/-- FD4 -/
theorem test_illegal_low_byte : faultOf (boot [266]) =
    some (.errored, 0, ⟨.invalidInstruction, .none, 0, 266, 0⟩) := by decide
/-- FD7: the step right after reset, with no program loaded -/
theorem test_fetch_empty_program : faultOf State.reset =
    some (.errored, 0, ⟨.outOfRange, .fetch, 0, 0, 0⟩) := by decide

/-- The loader's placement runs the table row's instruction as the first after reset. -/
theorem test_withFetchWord : (stepOf (State.reset.withFetchWord 96 (11 + 1 * 2 ^ 32 + 42 * 2 ^ 64))).map
    (fun t => (t.x, t.pc)) = some (⟨0, 42, 0, 0⟩, 3) := by decide

/-- R95, R97: the document's own example. -/
theorem test_texts : lineText [.movv 1 42, .print 1, .halt] = "MOVV r1,42; PRINT r1; HALT" ∧
    programText [11, 1, 42, 60, 1, 255] = "11,1,42,60,1,255" := by decide

/-! Witnesses: states and operands that meet the hypotheses of each statement, clause by clause. -/

theorem witness_TruncatedFaults : ∀ p ∈ opcodeArities, ∀ k ∈ [1, 2, 3], k ≤ p.2 →
    Ready (boot (p.1 :: List.replicate (k - 1) 0)) ∧
    (boot (p.1 :: List.replicate (k - 1) 0)).program[0]? = some p.1 ∧
    (boot (p.1 :: List.replicate (k - 1) 0)).progLen = 0 + k := by decide

theorem witness_MissingOperandEntersFault : ((41, 3) : Word × Nat) ∈ opcodeArities := by decide

theorem witness_ResetValuesAreStartOfRun : State.reset ∈ [State.reset, startOfRun State.reset] := by decide

theorem inv_of_running (s : State) (h1 : Memory.wf s.program) (h2 : s.pc.toNat ≤ s.progLen)
    (h3 : ∀ n, s.params.stackDepth = .finite n → s.stack.length ≤ n) (h4 : s.runState = .running)
    (h5 : s.err = FaultRecord.clear) : Inv s := by
  constructor <;> simp_all [FaultRecord.clear]

theorem witness_StepKeepsInvariant : ∃ s t, Inv s ∧ step s = .next t ∧ t.runState = .running :=
  ⟨boot [60, 0, 255], _, inv_of_running _ (by decide) (by decide) (by simp [boot]) rfl rfl, rfl, rfl⟩

theorem witness_HostActionKeepsInvariant : ∃ (act : HostAction) (s t : State), Inv s ∧
    (∀ ws, act = .load ws → s.rst = true ∧ Memory.wf ws) ∧ hostAct act s = .next t :=
  ⟨.load [255], { boot [60, 0, 255] with rst := true }, _,
    inv_of_running _ (by decide) (by decide) (by simp [boot]) rfl rfl,
    by intro ws h; cases h; exact ⟨rfl, by decide⟩, rfl⟩

theorem witness_EncodeInvertsDecode : decode [60, 1, 255] = .ok (.print 1, [255]) := by rfl

theorem witness_StepRunsDecodedInstruction : Ready (boot [60, 1, 255]) ∧
    decode ((boot [60, 1, 255]).program.drop 0) = .ok (.print 1, [255]) := ⟨by decide, by rfl⟩

theorem witness_IllegalOpcodeEntersFault : [0, 9, 12, 61, 254, 256, 266, 0xFFFFFFFF].all fun op =>
    decide (Ready (boot [op]) ∧ (boot [op]).program[0]? = some op ∧
      op ∉ ([10, 11, 20, 21, 30, 31, 40, 41, 42, 50, 60, 255] : List Word)) := by decide

theorem witness_FetchBeyondProgramEntersFault :
    (Ready (boot []) ∧ (boot []).progLen ≤ (boot []).pc.toNat) ∧
    ([1, 2, 0xFFFFFFFF].all fun pc => decide (Ready (boot [50] ⟨0, 0, 0, 0⟩ [] .unbounded pc) ∧
      (boot [50] ⟨0, 0, 0, 0⟩ [] .unbounded pc).progLen ≤ pc.toNat)) := by decide

theorem witness_BadRegisterOperandEntersFault : Ready (boot [10, 3, 4]) ∧
    decode ((boot [10, 3, 4]).program.drop 0) = .ok (.movr 3 4, []) ∧
    (registerOperands (.movr 3 4)).find? (fun v => ! decide (RegIndexValid v)) = some 4 :=
  ⟨by decide, by rfl, by decide⟩

theorem witness_FirstFailingCheckDecidesFault : Ready (boot [31, 7]) ∧
    firstFault (boot [31, 7]) = some ⟨.outOfRange, .regIndex, 0, 31, 7⟩ ∧
    Ready (boot [31, 3]) ∧ firstFault (boot [31, 3]) = some ⟨.stackUnderflow, .none, 0, 31, 0⟩ ∧
    Ready (boot [40, 1]) ∧ firstFault (boot [40, 1]) = none := by decide

/-- The hypotheses on register operands of the statements on MOVR, MOVV, ADD, SUB, PUSH, POP, JL and PRINT:
the Words next to the valid range. -/
theorem witness_bad_register_operands : ¬ RegIndexValid 4 ∧ ¬ RegIndexValid 0xFFFFFFFF ∧
    ¬ RegIndexValid 0x80000000 ∧ ¬ RegIndexValid 0x7FFFFFFF := by decide
theorem witness_MovrCopiesRegister : ¬ RegIndexValid 4 ∧ ¬ RegIndexValid (-1) := by decide
theorem witness_MovvLoadsLiteral : ¬ RegIndexValid 4 := by decide
theorem witness_AddWritesWrappedSum : ¬ RegIndexValid 4 ∧ ¬ RegIndexValid (-1) := by decide
theorem witness_SubWritesWrappedDifference : ¬ RegIndexValid 4 ∧ ¬ RegIndexValid (-1) := by decide
theorem witness_PrintEmitsRegister : ¬ RegIndexValid 4 := by decide

theorem witness_PushPutsRegisterOnTop :
    (boot []).params.stackDepth ≠ .finite (boot []).stack.length ∧
    (boot [] ⟨0, 0, 0, 0⟩ [5] (.finite 2)).params.stackDepth ≠ .finite [(5 : Word)].length ∧
    (boot [] ⟨0, 0, 0, 0⟩ [5] (.finite 1)).params.stackDepth = .finite [(5 : Word)].length ∧
    ¬ RegIndexValid 4 := by decide

theorem witness_PopTakesTopIntoRegister : (boot [] ⟨0, 0, 0, 0⟩ [7]).stack = [] ++ [7] ∧
    (boot []).stack = [] ∧ ¬ RegIndexValid 4 := by decide

theorem witness_PushThenPopRestores : ∃ t u : State,
    (boot [] ⟨9, 0, 0, 0⟩ [5] (.finite 2)).params.stackDepth ≠ .finite 1 ∧
    exec (.push (regWord .r0)) (boot [] ⟨9, 0, 0, 0⟩ [5] (.finite 2)) = .next t ∧ u.stack = t.stack ∧
    u.x ≠ t.x := ⟨_, boot [] ⟨0, 0, 0, 0⟩ [5, 9], by decide, rfl, rfl, by decide⟩

/-- The ends of the range of targets of a program of two Words. -/
theorem witness_JpJumpsToTarget : (0 ≤ (0 : Word).toInt ∧ (0 : Word).toInt < (boot [40, 0]).progLen ∧
      0 ≤ (1 : Word).toInt ∧ (1 : Word).toInt < (boot [40, 0]).progLen) ∧
    (0xFFFFFFFF : Word).toInt < 0 ∧ (boot [40, 0]).progLen ≤ (2 : Word).toInt := by decide

theorem witness_JlJumpsWhenSignedLess :
    ((boot [41, 0, 1, 0] ⟨0x80000000, 0x7FFFFFFF, 0, 0⟩).x.read .r0).toInt <
      ((boot [41, 0, 1, 0] ⟨0x80000000, 0x7FFFFFFF, 0, 0⟩).x.read .r1).toInt ∧
    (0 ≤ (0 : Word).toInt ∧ (0 : Word).toInt < (boot [41, 0, 1, 0]).progLen ∧
      0 ≤ (3 : Word).toInt ∧ (3 : Word).toInt < (boot [41, 0, 1, 0]).progLen) ∧
    (0xFFFFFFFF : Word).toInt < 0 ∧ (boot [41, 0, 1, 0]).progLen ≤ (4 : Word).toInt ∧
    ((boot [] ⟨3, 3, 0, 0⟩).x.read .r1).toInt ≤ ((boot [] ⟨3, 3, 0, 0⟩).x.read .r0).toInt ∧
    ¬ RegIndexValid 4 ∧ ¬ RegIndexValid (-1) := by decide

theorem witness_CallPushesReturnAddress :
    (0 ≤ (0 : Word).toInt ∧ (0 : Word).toInt < (boot [42, 0]).progLen ∧
      0 ≤ (1 : Word).toInt ∧ (1 : Word).toInt < (boot [42, 0]).progLen) ∧
    (boot [42, 0] ⟨0, 0, 0, 0⟩ [5] (.finite 2)).params.stackDepth ≠ .finite [(5 : Word)].length ∧
    (0xFFFFFFFF : Word).toInt < 0 ∧ (boot [42, 0]).progLen ≤ (2 : Word).toInt ∧
    (boot [42, 0] ⟨0, 0, 0, 0⟩ [5] (.finite 1)).params.stackDepth = .finite [(5 : Word)].length := by decide

theorem witness_RetJumpsToTopOfStack :
    ([0, 1].all fun a => decide ((boot [50, 255] ⟨0, 0, 0, 0⟩ [9, a]).stack = [9] ++ [a] ∧
      0 ≤ a.toInt ∧ a.toInt < (boot [50, 255]).progLen)) ∧
    ((boot [50, 255] ⟨0, 0, 0, 0⟩ [0xFFFFFFFF]).stack = [] ++ [0xFFFFFFFF] ∧
      (0xFFFFFFFF : Word).toInt < 0) ∧
    ((boot [50, 255] ⟨0, 0, 0, 0⟩ [2]).stack = [] ++ [2] ∧ (boot [50, 255]).progLen ≤ (2 : Word).toInt) ∧
    (boot [50]).stack = [] := by decide

/-- A CALL before a last Word, and a CALL that is the last instruction. -/
theorem witness_CallThenRetReturns : ∀ p ∈ ([[42, 0, 50], [42, 0]] : List (List Word)),
    Memory.wf p ∧ 0 ≤ (0 : Word).toInt ∧ (0 : Word).toInt < (boot p).progLen ∧
    (boot p).params.stackDepth ≠ .finite (boot p).stack.length ∧ (boot p).pc.toNat + 2 ≤ (boot p).progLen ∧
    (nextOf (exec (.call 0) (boot p))).map (·.stack) = some (boot p ⟨0, 0, 0, 0⟩ [2]).stack := by decide

theorem witness_HaltEndsTheRun : (Ready (boot [255]) ∧ (stepOf (boot [255])).isSome) ∧
    { boot [255] with runState := .halted }.rst = false ∧
    { boot [255] with runState := .halted }.runState = .halted ∧
    (stepOf { boot [255] with runState := .halted }).isSome := by decide

theorem witness_RegisterFileReadsLastWrite : ∀ r, (boot []).x.read r = State.reset.x.read r := by
  intro r; cases r <;> rfl

theorem witness_RegistersReadAndWritten : (boot [10, 0, 2] ⟨0, 0, 7, 0⟩).runState = .running ∧
    (nextOf (exec (.movr 0 2) (boot [10, 0, 2] ⟨0, 0, 7, 0⟩))).map
      (fun t => decide (t.x.read .r0 ≠ (0 : Word))) = some true ∧
    (nextOf (exec (.movr 0 9) (boot [10, 0, 9]))).map (·.runState) = some .errored ∧
    regWord .r0 ∉ registersRead (.movr 0 2) := by decide

theorem witness_StackChangesOnlyAtTop : ∃ t u v,
    exec (.push 0) (boot []) = .next t ∧ exec (.pop 0) (boot [] ⟨0, 0, 0, 0⟩ [7]) = .next u ∧
    exec .halt (boot []) = .next v ∧ t.stack = [0] ∧ u.stack = [] := ⟨_, _, _, rfl, rfl, rfl, rfl, rfl⟩

theorem witness_EntriesBelowTopUnread : ∃ t,
    (boot []).params.stackDepth = .unbounded ∧ ([1, 2] : List Word).length = ([3, 4] : List Word).length ∧
    exec (.pop 0) { boot [] with stack := [1, 2] ++ [9] } = .next t ∧ t.stack = [1, 2] ++ [] :=
  ⟨_, rfl, rfl, rfl, rfl⟩

theorem witness_OutputGrowsOnlyByPrint :
    ((boot [60, 3] ⟨0, 0, 0, 8⟩).rst = false ∧
      (stepOf (boot [60, 3] ⟨0, 0, 0, 8⟩)).map (·.outBeat) = some (some 8)) ∧
    Ready (boot [60, 4]) ∧ (stepOf (boot [60, 4])).map (·.runState) = some .errored := by decide

theorem witness_OutputGrowsOnlyByPrint_print : Ready (boot [60, 3] ⟨0, 0, 0, 8⟩) ∧
    decode ((boot [60, 3] ⟨0, 0, 0, 8⟩).program.drop 0) = .ok (.print (regWord .r3), []) :=
  ⟨by decide, by rfl⟩

theorem witness_ProgramStoreNeverWritten :
    (nextOf (exec (.push 0) (boot [30, 0]))).isSome ∧ (stepOf (boot [30, 0])).isSome := by decide

theorem witness_StepNeverReadsOutsideStore :
    (boot [50, 255]).program[1]? = some 255 ∧ Memory.wf (boot [50, 255]).program := by decide

theorem witness_FaultEntryIsPrecise :
    (Ready (boot [50]) ∧ (stepOf (boot [50])).map (·.runState) = some .errored) ∧
    (Ready (boot [255]) ∧ (stepOf (boot [255])).map (·.runState) = some .halted) := by decide

theorem witness_PcAdvancesOrTransfers :
    (Ready (boot [255]) ∧ (stepOf (boot [255])).map (·.runState) = some .halted) ∧
    (Ready (boot [30, 0]) ∧ (stepOf (boot [30, 0])).map (·.runState) = some .running) := by decide

theorem witness_RunStateTransitions :
    (Ready (boot [255]) ∧ (stepOf (boot [255])).isSome) ∧
    { boot [] with runState := .errored }.rst = false ∧
    { boot [] with runState := .errored }.runState ≠ .running ∧
    (stepOf { boot [] with runState := .errored }).isSome := by decide

theorem witness_ResetHoldsStartOfRun : { boot [255] with rst := true }.rst = true := by decide

theorem witness_NoStateSurvivesReset : ∃ u v : State,
    boot [255] ⟨1, 2, 3, 4⟩ [5] ≠ boot [255] ∧
    (boot [255] ⟨1, 2, 3, 4⟩ [5]).program = (boot [255]).program ∧
    (boot [255] ⟨1, 2, 3, 4⟩ [5]).params = (boot [255]).params ∧
    (boot [255] ⟨1, 2, 3, 4⟩ [5]).stopReq = (boot [255]).stopReq ∧
    hostAct (.setRst true) (boot [255] ⟨1, 2, 3, 4⟩ [5]) = .next u ∧
    hostAct (.setRst true) (boot [255]) = .next v := ⟨_, _, by decide, rfl, rfl, rfl, rfl, rfl⟩

/-- The core of `boot`, with the port `stop_req`. -/
def bootStop (program : List Word) (level : Bool) : State :=
  { boot program with stopReq := level, params := { stackDepth := .unbounded, hasStopReq := true } }

theorem witness_StopRequestWithholdsSteps :
    ((bootStop [255] true).rst = false ∧ (bootStop [255] true).params.hasStopReq = true ∧
      (bootStop [255] true).stopReq = true ∧ (bootStop [255] true).runState = .running) ∧
    ((boot [255]).params.hasStopReq = false ∧ (stepOf (boot [255])).isSome) := by decide

/-- R46: while `stop_req` is asserted a HALT does not run; deasserted, it does. -/
theorem test_stop_request : (stepOf (bootStop [255] true)).map (·.runState) = some .running ∧
    (stepOf (bootStop [255] false)).map (·.runState) = some .halted := by decide

theorem witness_HostLoadsOnlyOutsideARun : { boot [] with rst := true }.rst = true ∧
    (boot []).rst = false ∧ (boot []).runState = .running := by decide

theorem witness_EndedRunStaysUntilReset : { boot [] with runState := .halted }.rst = false ∧
    { boot [] with runState := .halted }.runState ≠ .running ∧
    { boot [] with runState := .errored }.runState ≠ .running := by decide

end Sys2Proof.Tests
end

/-! SUPPORT. Decoding inverts encoding in both directions, and what each decode error says of the
Words. -/

namespace Sys2Proof

theorem operandWords1_eq_ok {op : Word} {mk : Word → Instr} {ws rest : List Word} {i : Instr}
    (h : operandWords1 op mk ws = .ok (i, rest)) : ∃ w1, i = mk w1 ∧ ws = w1 :: rest := by
  match ws, h with
  | _ :: _, rfl => exact ⟨_, rfl, rfl⟩

theorem operandWords2_eq_ok {op : Word} {mk : Word → Word → Instr} {ws rest : List Word} {i : Instr}
    (h : operandWords2 op mk ws = .ok (i, rest)) :
    ∃ w1 w2, i = mk w1 w2 ∧ ws = w1 :: w2 :: rest := by
  match ws, h with
  | _ :: _ :: _, rfl => exact ⟨_, _, rfl, rfl⟩

theorem operandWords3_eq_ok {op : Word} {mk : Word → Word → Word → Instr} {ws rest : List Word}
    {i : Instr} (h : operandWords3 op mk ws = .ok (i, rest)) :
    ∃ w1 w2 w3, i = mk w1 w2 w3 ∧ ws = w1 :: w2 :: w3 :: rest := by
  match ws, h with
  | _ :: _ :: _ :: _, rfl => exact ⟨_, _, _, rfl, rfl⟩

theorem operandWords1_eq_error {op : Word} {mk : Word → Instr} {ws : List Word} {e : DecodeError}
    (h : operandWords1 op mk ws = .error e) :
    e = .missingOperand op (ws.length + 1) ∧ ws.length < 1 := by
  match ws, h with
  | [], rfl => exact ⟨rfl, by decide⟩

theorem operandWords2_eq_error {op : Word} {mk : Word → Word → Instr} {ws : List Word}
    {e : DecodeError} (h : operandWords2 op mk ws = .error e) :
    e = .missingOperand op (ws.length + 1) ∧ ws.length < 2 := by
  match ws, h with
  | [], rfl => exact ⟨rfl, by decide⟩
  | [_], rfl => exact ⟨rfl, by simp⟩

theorem operandWords3_eq_error {op : Word} {mk : Word → Word → Word → Instr} {ws : List Word}
    {e : DecodeError} (h : operandWords3 op mk ws = .error e) :
    e = .missingOperand op (ws.length + 1) ∧ ws.length < 3 := by
  match ws, h with
  | [], rfl => exact ⟨rfl, by decide⟩
  | [_], rfl => exact ⟨rfl, by simp⟩
  | [_, _], rfl => exact ⟨rfl, by simp⟩

/-- R71: the operands decoded are the Words that stand there, under the opcode asked for. -/
theorem decodeOperands_eq_ok {oc : Opcode} {ws rest : List Word} {i : Instr}
    (h : decodeOperands oc ws = .ok (i, rest)) : i.opcode = oc ∧ ws = i.operands ++ rest := by
  cases oc with
  | ret | halt => cases h; exact ⟨rfl, rfl⟩
  | push | pop | jp | call | print =>
    obtain ⟨w1, rfl, rfl⟩ := operandWords1_eq_ok h
    exact ⟨rfl, rfl⟩
  | movr | movv | add | sub =>
    obtain ⟨w1, w2, rfl, rfl⟩ := operandWords2_eq_ok h
    exact ⟨rfl, rfl⟩
  | jl =>
    obtain ⟨w1, w2, w3, rfl, rfl⟩ := operandWords3_eq_ok h
    exact ⟨rfl, rfl⟩

/-- R79: decoding operands fails only at the first that is missing. -/
theorem decodeOperands_eq_error {oc : Opcode} {ws : List Word} {e : DecodeError}
    (h : decodeOperands oc ws = .error e) :
    e = .missingOperand oc.word (ws.length + 1) ∧ ws.length < oc.arity := by
  cases oc with
  | ret | halt => cases h
  | push | pop | jp | call | print => exact operandWords1_eq_error h
  | movr | movv | add | sub => exact operandWords2_eq_error h
  | jl => exact operandWords3_eq_error h

/-- R79, the other direction: too few operand Words are a missing operand. -/
theorem decodeOperands_short {oc : Opcode} {tl : List Word} (h : tl.length < oc.arity) :
    decodeOperands oc tl = .error (.missingOperand oc.word (tl.length + 1)) := by
  rcases hd : decodeOperands oc tl with e | ⟨i, rest⟩
  · rw [(decodeOperands_eq_error hd).1]
  · obtain ⟨rfl, rfl⟩ := decodeOperands_eq_ok hd
    rw [List.length_append, operands_length] at h
    omega

theorem decode_encode (i : Instr) (rest : List Word) :
    decode (encode i ++ rest) = .ok (i, rest) := by
  rw [encode, List.cons_append, decode_word]
  cases i <;> rfl

theorem decode_illegal {op : Word} (ws : List Word) (h : opcodeOfWord op = none) :
    decode (op :: ws) = .error (.illegalOpcode op) := by
  simp [decode, h]

theorem decode_eq_ok {ws rest : List Word} {i : Instr} (h : decode ws = .ok (i, rest)) :
    ws = encode i ++ rest := by
  rcases ws with _ | ⟨op, ws⟩
  · cases h
  · rcases ho : opcodeOfWord op with _ | oc
    · rw [decode_illegal ws ho] at h
      cases h
    · obtain rfl := (opcodeOfWord_eq_some_iff op oc).1 ho
      rw [decode_word] at h
      obtain ⟨rfl, rfl⟩ := decodeOperands_eq_ok h
      rfl

/-- R77 to R79: the three ways in which Words are no instruction. -/
theorem decode_eq_error {ws : List Word} {e : DecodeError} (h : decode ws = .error e) :
    (e = .noOpcode ∧ ws = []) ∨
    (∃ op tl, e = .illegalOpcode op ∧ ws = op :: tl ∧ opcodeOfWord op = none) ∨
    (∃ (oc : Opcode) (tl : List Word), e = .missingOperand oc.word (tl.length + 1) ∧
      ws = oc.word :: tl ∧ tl.length < oc.arity) := by
  rcases ws with _ | ⟨op, ws⟩
  · cases h
    exact .inl ⟨rfl, rfl⟩
  · rcases ho : opcodeOfWord op with _ | oc
    · rw [decode_illegal ws ho] at h
      cases h
      exact .inr (.inl ⟨op, ws, rfl, rfl, ho⟩)
    · obtain rfl := (opcodeOfWord_eq_some_iff op oc).1 ho
      rw [decode_word] at h
      obtain ⟨rfl, hlt⟩ := decodeOperands_eq_error h
      exact .inr (.inr ⟨oc, ws, rfl, rfl, hlt⟩)

end Sys2Proof

namespace Sys2Proof.Machine

/-! SUPPORT. The fetch unit and the decoder together: an instruction cycle runs the instruction that
the whole rest of the program from pc on decodes to. -/

section
variable {s : State}

theorem drop_succ_pc {op : Word} {tl : List Word} (h : s.program.drop s.pc.toNat = op :: tl) :
    s.program.drop (s.pc.toNat + 1) = tl := by
  rw [← List.drop_drop, h, List.drop_one, List.tail_cons]

/-- R78 -/
theorem fetchInstr_nil (h : s.program.drop s.pc.toNat = []) : fetchInstr s = .ok [] := by
  simp [fetchInstr, fetchWords_eq, h]

theorem fetchInstr_illegal {op : Word} {tl : List Word}
    (h : s.program.drop s.pc.toNat = op :: tl) (ho : opcodeOfWord op = none) :
    fetchInstr s = .ok [op] := by
  simp [fetchInstr, fetchWords_eq, h, ho]

theorem fetchInstr_opcode {oc : Opcode} {tl : List Word}
    (h : s.program.drop s.pc.toNat = oc.word :: tl) :
    fetchInstr s = .ok (oc.word :: tl.take oc.arity) := by
  simp [fetchInstr, fetchWords_eq, h, drop_succ_pc h]

/-- The Words fetched decode as all Words from pc on do. -/
theorem fetchInstr_decode (s : State) : ∃ ws, fetchInstr s = .ok ws ∧
    (decode ws).map Prod.fst = (decode (s.program.drop s.pc.toNat)).map Prod.fst := by
  rcases h : s.program.drop s.pc.toNat with _ | ⟨op, tl⟩
  · exact ⟨_, fetchInstr_nil h, rfl⟩
  · rcases ho : opcodeOfWord op with _ | oc
    · exact ⟨_, fetchInstr_illegal h ho, by rw [decode_illegal _ ho, decode_illegal _ ho]⟩
    · obtain rfl := (opcodeOfWord_eq_some_iff op oc).1 ho
      exact ⟨_, fetchInstr_opcode h, by rw [decode_word, decode_word, decodeOperands_take]⟩

theorem runInstr_decoded {i : Instr} {rest : List Word}
    (h : decode (s.program.drop s.pc.toNat) = .ok (i, rest)) : runInstr s = exec i s := by
  obtain ⟨ws, hf, hd⟩ := fetchInstr_decode s
  rw [h] at hd
  rcases hw : decode ws with e | ⟨j, r⟩ <;> rw [hw] at hd <;> cases hd
  simp only [runInstr, hf, hw]

theorem runInstr_undecoded {e : DecodeError}
    (h : decode (s.program.drop s.pc.toNat) = .error e) : runInstr s = raiseDecodeError e s := by
  obtain ⟨ws, hf, hd⟩ := fetchInstr_decode s
  rw [h] at hd
  rcases hw : decode ws with e' | ⟨j, r⟩ <;> rw [hw] at hd <;> cases hd
  simp only [runInstr, hf, hw]

end

/-! SUPPORT. What an instruction can do: it completes with an effect, or it raises a fault. The two
relations have one constructor for each way an instruction ends; `completes_or_faults` says that
there is no other way, `exec_of_completes` and `exec_of_faults` what the meaning then answers. -/

/-- R80: the first register operand, in ascending word position, that names no register. -/
def firstBadRegister (ws : List Word) : Option Word :=
  ws.find? fun v => ! decide (RegIndexValid v)

/-- The instruction passes all its checks in s and has the given control signals (R83). -/
inductive Completes (s : State) : Instr → Effect → Prop where
  | movr (d r : Reg) : Completes s (.movr (regWord d) (regWord r))
      { write := some (d, s.x.read r), next := .seq 3 }
  | movv (d : Reg) (literal : Word) : Completes s (.movv (regWord d) literal)
      { write := some (d, literal), next := .seq 3 }
  | add (d r : Reg) : Completes s (.add (regWord d) (regWord r))
      { write := some (d, addWords (s.x.read d) (s.x.read r)), next := .seq 3 }
  | sub (d r : Reg) : Completes s (.sub (regWord d) (regWord r))
      { write := some (d, subWords (s.x.read d) (s.x.read r)), next := .seq 3 }
  | push (r : Reg) (room : stackFull s = false) : Completes s (.push (regWord r))
      { stack := .push (s.x.read r), next := .seq 2 }
  | pop (d : Reg) (v : Word) (top : stackTop s = some v) : Completes s (.pop (regWord d))
      { write := some (d, v), stack := .pop, next := .seq 2 }
  | jp (addr : Word) (valid : ValidTarget s addr) : Completes s (.jp addr) { next := .target addr }
  | jlTaken (a b : Reg) (addr : Word) (less : LessSigned (s.x.read a) (s.x.read b))
      (valid : ValidTarget s addr) :
      Completes s (.jl (regWord a) (regWord b) addr) { next := .target addr }
  | jlNotTaken (a b : Reg) (addr : Word) (notLess : ¬ LessSigned (s.x.read a) (s.x.read b)) :
      Completes s (.jl (regWord a) (regWord b) addr) { next := .seq 4 }
  | call (addr : Word) (valid : ValidTarget s addr) (room : stackFull s = false) :
      Completes s (.call addr) { stack := .push (s.pc + 2), next := .target addr }
  | ret (t : Word) (top : stackTop s = some t) (valid : ValidTarget s t) :
      Completes s .ret { stack := .pop, next := .stack t }
  | print (r : Reg) : Completes s (.print (regWord r))
      { emit := some (s.x.read r), next := .seq 2 }
  | halt : Completes s .halt { halt := true, next := .hold }

/-- A check of the instruction fails in s, and this is the record's code, sub-kind and value
(R161 to R164). -/
inductive Faults (s : State) : Instr → ErrCode → ErrSub → Word → Prop where
  | badRegister (i : Instr) (w : Word)
      (first : firstBadRegister (registerOperands i) = some w) :
      Faults s i .outOfRange .regIndex w
  | pushFull (r : Reg) (full : stackFull s = true) :
      Faults s (.push (regWord r)) .stackOverflow .none 0
  | popEmpty (d : Reg) (empty : stackTop s = none) :
      Faults s (.pop (regWord d)) .stackUnderflow .none 0
  | jpTarget (addr : Word) (invalid : ¬ ValidTarget s addr) :
      Faults s (.jp addr) .outOfRange .jumpTarget addr
  | jlTarget (a b : Reg) (addr : Word) (less : LessSigned (s.x.read a) (s.x.read b))
      (invalid : ¬ ValidTarget s addr) :
      Faults s (.jl (regWord a) (regWord b) addr) .outOfRange .jumpTarget addr
  | callTarget (addr : Word) (invalid : ¬ ValidTarget s addr) :
      Faults s (.call addr) .outOfRange .jumpTarget addr
  | callFull (addr : Word) (valid : ValidTarget s addr) (full : stackFull s = true) :
      Faults s (.call addr) .stackOverflow .none 0
  | retEmpty (empty : stackTop s = none) : Faults s .ret .stackUnderflow .none 0
  | retTarget (t : Word) (top : stackTop s = some t) (invalid : ¬ ValidTarget s t) :
      Faults s .ret .outOfRange .retTarget t

theorem regIndexValid_regWord (r : Reg) : RegIndexValid (regWord r) := by
  cases r <;> decide

/-- R24: the valid register operands are the Words of the registers. -/
theorem regIndexValid_iff (w : Word) : RegIndexValid w ↔ ∃ r, w = regWord r := by
  constructor
  · intro h
    rcases hw : regOfWord w with _ | r
    · exact absurd h ((regOfWord_eq_none_iff w).1 hw)
    · exact ⟨r, (regOfWord_eq_some_iff w r).1 hw⟩
  · rintro ⟨r, rfl⟩
    exact regIndexValid_regWord r

@[simp] theorem firstBadRegister_nil : firstBadRegister [] = none := rfl

@[simp] theorem firstBadRegister_cons_regWord (r : Reg) (ws : List Word) :
    firstBadRegister (regWord r :: ws) = firstBadRegister ws := by
  simp [firstBadRegister, regIndexValid_regWord r]

theorem firstBadRegister_cons_invalid {w : Word} (ws : List Word) (h : ¬ RegIndexValid w) :
    firstBadRegister (w :: ws) = some w := by
  simp only [firstBadRegister, List.find?_cons, h, decide_false, Bool.not_false]

/-- Either every operand of a list names a register, or there is a first one that does not. -/
theorem registers_or_firstBad (ws : List Word) :
    (∀ w ∈ ws, ∃ r, w = regWord r) ∨ ∃ w, firstBadRegister ws = some w := by
  rcases h : firstBadRegister ws with _ | w
  · refine .inl fun w hw => (regIndexValid_iff w).1 ?_
    simpa using List.find?_eq_none.1 h w hw
  · exact .inr ⟨w, rfl⟩

theorem register_of_one {w1 : Word} (h : ∀ w ∈ [w1], ∃ r, w = regWord r) : ∃ r, w1 = regWord r :=
  h w1 (List.mem_singleton_self w1)

theorem registers_of_two {w1 w2 : Word} (h : ∀ w ∈ [w1, w2], ∃ r, w = regWord r) :
    ∃ p q, w1 = regWord p ∧ w2 = regWord q := by
  obtain ⟨p, hp⟩ := h w1 (by simp)
  obtain ⟨q, hq⟩ := h w2 (by simp)
  exact ⟨p, q, hp, hq⟩

section
variable {s : State} {i : Instr}

theorem exec_of_completes {e : Effect} (h : Completes s i e) : exec i s = .next (commit e s) := by
  cases h with
  | movr | movv | add | sub | print =>
    simp only [exec, execMovr, execMovv, execAdd, execSub, execPrint, withRegs, withReg_valid]
  | push r room => simp [exec, execPush, withReg_valid, room]
  | pop d v top => simp [exec, execPop, withReg_valid, top]
  | jp addr valid => exact if_pos valid
  | jlTaken a b addr less valid =>
    simp only [exec, execJl, withRegs, withReg_valid, if_pos less, withTarget, if_pos valid]
  | jlNotTaken a b addr notLess => simp only [exec, execJl, withRegs, withReg_valid, if_neg notLess]
  | call addr valid room => simp [exec, execCall, withTarget, if_pos valid, room]
  | ret t top valid => simp only [exec, execRet, top, if_pos valid]
  | halt => rfl

theorem withReg_bad {oc : Opcode} {w1 w : Word} {run : Reg → Result}
    (h : firstBadRegister [w1] = some w) :
    withReg oc w1 s run = .next (enterFault .outOfRange .regIndex oc.word w s) := by
  rcases withReg_cases oc w1 s run with ⟨r, rfl, -⟩ | ⟨hbad, heq⟩
  · rw [firstBadRegister_cons_regWord] at h
    cases h
  · rw [firstBadRegister_cons_invalid _ hbad] at h
    cases h
    exact heq

theorem withRegs_bad {oc : Opcode} {w1 w2 w : Word} {run : Reg → Reg → Result}
    (h : firstBadRegister [w1, w2] = some w) :
    withRegs oc w1 w2 s run = .next (enterFault .outOfRange .regIndex oc.word w s) := by
  rcases withReg_cases oc w1 s fun p => withReg oc w2 s fun q => run p q with
    ⟨r, rfl, heq⟩ | ⟨hbad, heq⟩
  · rw [firstBadRegister_cons_regWord] at h
    exact heq.trans (withReg_bad h)
  · rw [firstBadRegister_cons_invalid _ hbad] at h
    cases h
    exact heq

/-- R80: the first bad register operand decides. -/
theorem exec_badRegister {w : Word} (h : firstBadRegister (registerOperands i) = some w) :
    exec i s = .next (enterFault .outOfRange .regIndex i.opcode.word w s) := by
  cases i with
  | movr | add | sub | jl => exact withRegs_bad h
  | movv | push | pop | print => exact withReg_bad h
  | jp | call | ret | halt => cases h

theorem exec_of_faults {code : ErrCode} {sub : ErrSub} {v : Word} (h : Faults s i code sub v) :
    exec i s = .next (enterFault code sub i.opcode.word v s) := by
  cases h with
  | badRegister i w first => exact exec_badRegister first
  | pushFull r full => simp [exec, execPush, withReg_valid, full, raiseStackOverflow, Instr.opcode]
  | popEmpty d empty =>
    simp [exec, execPop, withReg_valid, empty, raiseStackUnderflow, Instr.opcode]
  | jpTarget addr invalid | callTarget addr invalid => exact if_neg invalid
  | jlTarget a b addr less invalid =>
    simp only [exec, execJl, withRegs, withReg_valid, if_pos less]
    exact if_neg invalid
  | callFull addr valid full =>
    simp [exec, execCall, withTarget, if_pos valid, full, raiseStackOverflow, Instr.opcode]
  | retEmpty empty => simp [exec, execRet, empty, raiseStackUnderflow, Instr.opcode]
  | retTarget t top invalid => simp only [exec, execRet, top]; exact if_neg invalid

/-- Every instruction completes or faults, in any state (R166). -/
theorem completes_or_faults (s : State) (i : Instr) :
    (∃ e, Completes s i e) ∨ ∃ code sub v, Faults s i code sub v := by
  rcases registers_or_firstBad (registerOperands i) with hreg | ⟨w, hw⟩
  · cases i with
    | movr dst src =>
      obtain ⟨d, r, rfl, rfl⟩ := registers_of_two hreg
      exact .inl ⟨_, .movr d r⟩
    | movv dst literal =>
      obtain ⟨d, rfl⟩ := register_of_one hreg
      exact .inl ⟨_, .movv d literal⟩
    | add dst src =>
      obtain ⟨d, r, rfl, rfl⟩ := registers_of_two hreg
      exact .inl ⟨_, .add d r⟩
    | sub dst src =>
      obtain ⟨d, r, rfl, rfl⟩ := registers_of_two hreg
      exact .inl ⟨_, .sub d r⟩
    | push src =>
      obtain ⟨r, rfl⟩ := register_of_one hreg
      rcases hfull : stackFull s
      · exact .inl ⟨_, .push r hfull⟩
      · exact .inr ⟨_, _, _, .pushFull r hfull⟩
    | pop dst =>
      obtain ⟨d, rfl⟩ := register_of_one hreg
      rcases htop : stackTop s with _ | v
      · exact .inr ⟨_, _, _, .popEmpty d htop⟩
      · exact .inl ⟨_, .pop d v htop⟩
    | jp addr =>
      by_cases hv : ValidTarget s addr
      · exact .inl ⟨_, .jp addr hv⟩
      · exact .inr ⟨_, _, _, .jpTarget addr hv⟩
    | jl a b addr =>
      obtain ⟨p, q, rfl, rfl⟩ := registers_of_two hreg
      by_cases hlt : LessSigned (s.x.read p) (s.x.read q)
      · by_cases hv : ValidTarget s addr
        · exact .inl ⟨_, .jlTaken p q addr hlt hv⟩
        · exact .inr ⟨_, _, _, .jlTarget p q addr hlt hv⟩
      · exact .inl ⟨_, .jlNotTaken p q addr hlt⟩
    | call addr =>
      by_cases hv : ValidTarget s addr
      · rcases hfull : stackFull s
        · exact .inl ⟨_, .call addr hv hfull⟩
        · exact .inr ⟨_, _, _, .callFull addr hv hfull⟩
      · exact .inr ⟨_, _, _, .callTarget addr hv⟩
    | ret =>
      rcases htop : stackTop s with _ | t
      · exact .inr ⟨_, _, _, .retEmpty htop⟩
      · by_cases hv : ValidTarget s t
        · exact .inl ⟨_, .ret t htop hv⟩
        · exact .inr ⟨_, _, _, .retTarget t htop hv⟩
    | print src =>
      obtain ⟨r, rfl⟩ := register_of_one hreg
      exact .inl ⟨_, .print r⟩
    | halt => exact .inl ⟨_, .halt⟩
  · exact .inr ⟨_, _, _, .badRegister i w hw⟩

/-- All that an instruction can do. -/
theorem exec_cases (s : State) (i : Instr) :
    (∃ e, Completes s i e ∧ exec i s = .next (commit e s)) ∨
    (∃ code sub v, Faults s i code sub v ∧
      exec i s = .next (enterFault code sub i.opcode.word v s)) := by
  rcases completes_or_faults s i with ⟨e, h⟩ | ⟨code, sub, v, h⟩
  · exact .inl ⟨e, h, exec_of_completes h⟩
  · exact .inr ⟨code, sub, v, h, exec_of_faults h⟩

/-- What an instruction has done that answers t. -/
theorem exec_next_cases {t : State} (h : exec i s = .next t) :
    (∃ e, Completes s i e ∧ t = commit e s) ∨
    (∃ code sub v, Faults s i code sub v ∧ t = enterFault code sub i.opcode.word v s) := by
  rcases exec_cases s i with ⟨e, hc, heq⟩ | ⟨code, sub, v, hf, heq⟩ <;> rw [heq] at h <;> cases h
  · exact .inl ⟨e, hc, rfl⟩
  · exact .inr ⟨code, sub, v, hf, rfl⟩

end

/-! SUPPORT. What a step can do in a core that takes one: an instruction completes, or the step
enters the fault of one of R160 to R167. -/

/-- The step at pc fails a check, and this is the record's code, sub-kind, opcode and value. -/
inductive StepFaults (s : State) : ErrCode → ErrSub → Word → Word → Prop where
  | fetch (past : s.program.drop s.pc.toNat = []) : StepFaults s .outOfRange .fetch 0 s.pc
  | illegal (op : Word) (tl : List Word) (code : s.program.drop s.pc.toNat = op :: tl)
      (unknown : opcodeOfWord op = none) : StepFaults s .invalidInstruction .none op 0
  | missing (oc : Opcode) (tl : List Word) (code : s.program.drop s.pc.toNat = oc.word :: tl)
      (short : tl.length < oc.arity) :
      StepFaults s .outOfRange .operandFetch oc.word (s.pc + BitVec.ofNat 32 (tl.length + 1))
  | instr (i : Instr) (rest : List Word) (code : s.program.drop s.pc.toNat = encode i ++ rest)
      (err : ErrCode) (sub : ErrSub) (v : Word) (faults : Faults s i err sub v) :
      StepFaults s err sub i.opcode.word v

section
variable {s : State} {i : Instr} {rest : List Word}

theorem Ready.running (hr : Ready s) : s.runState = .running := hr.2.1

/-- R76: a step runs the instruction whose Words stand at pc. -/
theorem step_of_code (hr : Ready s) (h : s.program.drop s.pc.toNat = encode i ++ rest) :
    step s = exec i s := by
  rw [step_ready hr, runInstr_decoded (by rw [h, decode_encode])]

theorem step_undecoded (hr : Ready s) {e : DecodeError}
    (h : decode (s.program.drop s.pc.toNat) = .error e) : step s = raiseDecodeError e s := by
  rw [step_ready hr, runInstr_undecoded h]

/-- R165: a check that fails is answered by the entry of its fault. -/
theorem step_of_stepFaults {code : ErrCode} {sub : ErrSub} {op v : Word} (hr : Ready s)
    (h : StepFaults s code sub op v) : step s = .next (enterFault code sub op v s) := by
  cases h with
  | fetch past => exact step_undecoded hr (by rw [past, decode_nil])
  | illegal op tl hcode unknown =>
    exact step_undecoded hr (by rw [hcode, decode_illegal tl unknown])
  | missing oc tl hcode short =>
    exact step_undecoded hr (by rw [hcode, decode_word, decodeOperands_short short])
  | instr i rest hcode _ _ _ hf => rw [step_of_code hr hcode, exec_of_faults hf]

/-- The step at pc completes an instruction or fails a check. -/
theorem completes_or_stepFaults (s : State) :
    (∃ i rest e, s.program.drop s.pc.toNat = encode i ++ rest ∧ Completes s i e) ∨
    ∃ code sub op v, StepFaults s code sub op v := by
  rcases hd : decode (s.program.drop s.pc.toNat) with e | ⟨i, rest⟩
  · refine .inr ?_
    rcases decode_eq_error hd with ⟨-, h⟩ | ⟨op, tl, -, h, ho⟩ | ⟨oc, tl, -, h, hlt⟩
    · exact ⟨_, _, _, _, .fetch h⟩
    · exact ⟨_, _, _, _, .illegal op tl h ho⟩
    · exact ⟨_, _, _, _, .missing oc tl h hlt⟩
  · have hcode := decode_eq_ok hd
    rcases completes_or_faults s i with ⟨e, hc⟩ | ⟨code, sub, v, hf⟩
    · exact .inl ⟨i, rest, e, hcode, hc⟩
    · exact .inr ⟨_, _, _, _, .instr i rest hcode code sub v hf⟩

/-- All that a step can do in a core that takes one. -/
theorem step_ready_cases (hr : Ready s) :
    (∃ i rest e, s.program.drop s.pc.toNat = encode i ++ rest ∧ Completes s i e ∧
      step s = .next (commit e s)) ∨
    (∃ code sub op v, StepFaults s code sub op v ∧
      step s = .next (enterFault code sub op v s)) := by
  rcases completes_or_stepFaults s with ⟨i, rest, e, hcode, hc⟩ | ⟨code, sub, op, v, hf⟩
  · exact .inl ⟨i, rest, e, hcode, hc, by rw [step_of_code hr hcode, exec_of_completes hc]⟩
  · exact .inr ⟨code, sub, op, v, hf, step_of_stepFaults hr hf⟩

theorem step_ready_next_cases {t : State} (hr : Ready s) (h : step s = .next t) :
    (∃ i rest e, s.program.drop s.pc.toNat = encode i ++ rest ∧ Completes s i e ∧ t = commit e s) ∨
    (∃ code sub op v, StepFaults s code sub op v ∧ t = enterFault code sub op v s) := by
  rcases step_ready_cases hr with ⟨i, rest, e, hcode, hc, heq⟩ | ⟨code, sub, op, v, hf, heq⟩ <;>
    rw [heq] at h <;> cases h
  · exact .inl ⟨i, rest, e, hcode, hc, rfl⟩
  · exact .inr ⟨code, sub, op, v, hf, rfl⟩

/-- A step that answers next is a reset, no step, or the step of a core that takes one. -/
theorem step_next_cases {t : State} (h : step s = .next t) :
    (s.rst = true ∧ t = startOfRun s) ∨
    (s.rst = false ∧ (Ended s ∨ stopRequested s = true) ∧ t = noStep s) ∨ Ready s := by
  rcases step_cases s with ⟨hrst, heq⟩ | ⟨hrst, hwhy, heq⟩ | ⟨hr, -⟩ | ⟨-, heq⟩
  · rw [heq] at h
    cases h
    exact .inl ⟨hrst, rfl⟩
  · rw [heq] at h
    cases h
    exact .inr (.inl ⟨hrst, hwhy, rfl⟩)
  · exact .inr (.inr hr)
  · rw [heq] at h
    cases h

theorem commit_not_errored (e : Effect) (hrun : s.runState = .running) :
    (commit e s).runState ≠ .errored := by
  rw [commit_runState, hrun]
  split <;> nofun

/-- The program Words at pc, read one by one. -/
theorem program_getElem?_of_drop {ws : List Word} (h : s.program.drop s.pc.toNat = ws) (k : Nat) :
    s.program[s.pc.toNat + k]? = ws[k]? := by
  rw [← h, List.getElem?_drop]

theorem program_pc_of_drop {op : Word} {tl : List Word}
    (h : s.program.drop s.pc.toNat = op :: tl) : s.program[s.pc.toNat]? = some op :=
  program_getElem?_of_drop h 0

theorem program_pc_of_code (h : s.program.drop s.pc.toNat = encode i ++ rest) :
    s.program[s.pc.toNat]? = some i.opcode.word :=
  program_pc_of_drop h

/-- R75: the instruction at pc ends within the program. -/
theorem code_end_le (h : s.program.drop s.pc.toNat = encode i ++ rest) :
    s.pc.toNat + (1 + i.opcode.arity) ≤ s.progLen := by
  have hlen := congrArg List.length h
  simp only [List.length_drop, List.length_append, encode, List.length_cons, operands_length]
    at hlen
  unfold State.progLen
  omega

end

/-! SUPPORT. What the effect of an instruction that completes can hold. -/

namespace Completes

section
variable {s : State} {i : Instr} {e : Effect}

/-- R22: the only register write is the one of the table. -/
theorem write_cases (h : Completes s i e) :
    e.write = none ∨ ∃ d v, e.write = some (d, v) ∧ registerWritten i = some (regWord d) := by
  cases h with
  | movr d | movv d | add d | sub d | pop d => exact .inr ⟨d, _, rfl, rfl⟩
  | push | jp | jlTaken | jlNotTaken | call | ret | print | halt => exact .inl rfl

/-- R28, R64: PUSH and CALL put one entry on a stack that is not full, POP and RET take the top. -/
theorem stack_cases (h : Completes s i e) :
    e.stack = .keep ∨
    (∃ v, e.stack = .push v ∧ stackFull s = false ∧ (i.opcode = .push ∨ i.opcode = .call)) ∨
    (∃ v, e.stack = .pop ∧ stackTop s = some v ∧ (i.opcode = .pop ∨ i.opcode = .ret)) := by
  cases h with
  | push r room => exact .inr (.inl ⟨_, rfl, room, .inl rfl⟩)
  | call addr valid room => exact .inr (.inl ⟨_, rfl, room, .inr rfl⟩)
  | pop d v top => exact .inr (.inr ⟨v, rfl, top, .inl rfl⟩)
  | ret t top valid => exact .inr (.inr ⟨t, rfl, top, .inr rfl⟩)
  | movr | movv | add | sub | jp | jlTaken | jlNotTaken | print | halt => exact .inl rfl

/-- R150: only PRINT emits, and always. -/
theorem emit_cases (h : Completes s i e) :
    e.emit = none ∨ ∃ r, i = .print (regWord r) ∧ e.emit = some (s.x.read r) := by
  cases h with
  | print r => exact .inr ⟨r, rfl, rfl⟩
  | movr | movv | add | sub | push | pop | jp | jlTaken | jlNotTaken | call | ret | halt =>
    exact .inl rfl

/-- R85, R152: HALT holds pc; any other instruction goes to the next one, to a valid address
operand, or, for RET, to the valid top of the stack. -/
theorem next_cases (h : Completes s i e) :
    (i = .halt ∧ e.halt = true ∧ e.next = .hold) ∨
    (i ≠ .halt ∧ e.halt = false ∧
      (e.next = .seq (BitVec.ofNat 32 (1 + i.opcode.arity)) ∨
       (∃ a, ValidTarget s a ∧ e.next = .target a ∧
         (i = .jp a ∨ i = .call a ∨ ∃ p q, i = .jl p q a)) ∨
       (∃ t, ValidTarget s t ∧ e.next = .stack t ∧ i = .ret ∧ stackTop s = some t))) := by
  cases h with
  | halt => exact .inl ⟨rfl, rfl, rfl⟩
  | movr | movv | add | sub | push | pop | print | jlNotTaken =>
    exact .inr ⟨nofun, rfl, .inl rfl⟩
  | jp addr valid => exact .inr ⟨nofun, rfl, .inr (.inl ⟨addr, valid, rfl, .inl rfl⟩)⟩
  | call addr valid => exact .inr ⟨nofun, rfl, .inr (.inl ⟨addr, valid, rfl, .inr (.inl rfl)⟩)⟩
  | jlTaken a b addr less valid =>
    exact .inr ⟨nofun, rfl, .inr (.inl ⟨addr, valid, rfl, .inr (.inr ⟨_, _, rfl⟩)⟩)⟩
  | ret t top valid => exact .inr ⟨nofun, rfl, .inr (.inr ⟨t, valid, rfl, rfl, top⟩)⟩

end

end Completes

/-! SUPPORT. What an instruction's way to end depends on. -/

/-- The two states agree on all that instruction i reads but the stack below its top (R22, R30). -/
structure SameInputs (i : Instr) (s t : State) : Prop where
  reads : ∀ r, regWord r ∈ registersRead i → t.x.read r = s.x.read r
  pc : t.pc = s.pc
  progLen : t.progLen = s.progLen
  full : stackFull t = stackFull s
  top : stackTop t = stackTop s

section
variable {s t : State} {i : Instr}

theorem SameInputs.validTarget (h : SameInputs i s t) (a : Word) :
    ValidTarget t a ↔ ValidTarget s a := by
  rw [ValidTarget, ValidTarget, h.progLen]

theorem Completes.congr {e : Effect} (hs : SameInputs i s t) (h : Completes s i e) :
    Completes t i e := by
  have hread := hs.reads
  cases h with
  | movr d r =>
    rw [← hread r (by simp [registersRead])]
    exact .movr d r
  | movv d literal => exact .movv d literal
  | add d r =>
    rw [← hread d (by simp [registersRead]), ← hread r (by simp [registersRead])]
    exact .add d r
  | sub d r =>
    rw [← hread d (by simp [registersRead]), ← hread r (by simp [registersRead])]
    exact .sub d r
  | push r room =>
    rw [← hread r (by simp [registersRead])]
    exact .push r (hs.full.trans room)
  | pop d v top => exact .pop d v (hs.top.trans top)
  | jp addr valid => exact .jp addr ((hs.validTarget addr).2 valid)
  | jlTaken a b addr less valid =>
    rw [← hread a (by simp [registersRead]), ← hread b (by simp [registersRead])] at less
    exact .jlTaken a b addr less ((hs.validTarget addr).2 valid)
  | jlNotTaken a b addr notLess =>
    rw [← hread a (by simp [registersRead]), ← hread b (by simp [registersRead])] at notLess
    exact .jlNotTaken a b addr notLess
  | call addr valid room =>
    rw [← hs.pc]
    exact .call addr ((hs.validTarget addr).2 valid) (hs.full.trans room)
  | ret v top valid => exact .ret v (hs.top.trans top) ((hs.validTarget v).2 valid)
  | print r =>
    rw [← hread r (by simp [registersRead])]
    exact .print r
  | halt => exact .halt

theorem Faults.congr {code : ErrCode} {sub : ErrSub} {v : Word} (hs : SameInputs i s t)
    (h : Faults s i code sub v) : Faults t i code sub v := by
  have hread := hs.reads
  cases h with
  | badRegister i w first => exact .badRegister i v first
  | pushFull r full => exact .pushFull r (hs.full.trans full)
  | popEmpty d empty => exact .popEmpty d (hs.top.trans empty)
  | jpTarget addr invalid => exact .jpTarget v (mt (hs.validTarget v).1 invalid)
  | jlTarget a b addr less invalid =>
    rw [← hread a (by simp [registersRead]), ← hread b (by simp [registersRead])] at less
    exact .jlTarget a b v less (mt (hs.validTarget v).1 invalid)
  | callTarget addr invalid => exact .callTarget v (mt (hs.validTarget v).1 invalid)
  | callFull addr valid full =>
    exact .callFull addr ((hs.validTarget addr).2 valid) (hs.full.trans full)
  | retEmpty empty => exact .retEmpty (hs.top.trans empty)
  | retTarget w top invalid =>
    exact .retTarget v (hs.top.trans top) (mt (hs.validTarget v).1 invalid)

/-- Two states with the same inputs of an instruction end it in the same way. -/
theorem exec_cases_of_sameInputs (hs : SameInputs i s t) :
    (∃ e, Completes s i e ∧ exec i s = .next (commit e s) ∧ exec i t = .next (commit e t)) ∨
    (∃ code sub v, exec i s = .next (enterFault code sub i.opcode.word v s) ∧
      exec i t = .next (enterFault code sub i.opcode.word v t)) := by
  rcases exec_cases s i with ⟨e, hc, heq⟩ | ⟨code, sub, v, hf, heq⟩
  · exact .inl ⟨e, hc, heq, exec_of_completes (hc.congr hs)⟩
  · exact .inr ⟨code, sub, v, heq, exec_of_faults (hf.congr hs)⟩

end

/-! SUPPORT. The records that the faults write. -/

section
variable {s : State} {code : ErrCode} {sub : ErrSub} {op v : Word}

theorem stackDepth_ne_unbounded_of_full (h : stackFull s = true) :
    s.params.stackDepth ≠ .unbounded := by
  rw [(stackFull_iff s).1 h]
  nofun

/-- R32, R33, R36: what the code says of the record. -/
theorem Faults.record {i : Instr} (h : Faults s i code sub v) :
    (code = .outOfRange ∧ sub ≠ .none ∧ sub ≠ .fetch) ∨
    (code = .stackUnderflow ∧ sub = .none ∧ v = 0) ∨
    (code = .stackOverflow ∧ sub = .none ∧ v = 0 ∧ s.params.stackDepth ≠ .unbounded) := by
  cases h with
  | badRegister | jpTarget | jlTarget | callTarget | retTarget => exact .inl ⟨rfl, nofun, nofun⟩
  | popEmpty | retEmpty => exact .inr (.inl ⟨rfl, rfl, rfl⟩)
  | pushFull r full => exact .inr (.inr ⟨rfl, rfl, rfl, stackDepth_ne_unbounded_of_full full⟩)
  | callFull addr valid full =>
    exact .inr (.inr ⟨rfl, rfl, rfl, stackDepth_ne_unbounded_of_full full⟩)

theorem StepFaults.record (h : StepFaults s code sub op v) :
    code ≠ .none ∧ (code = .outOfRange ↔ sub ≠ .none) ∧ (code ≠ .outOfRange → v = 0) ∧
    (code = .stackOverflow → s.params.stackDepth ≠ .unbounded) := by
  cases h with
  | fetch | illegal | missing => simp
  | instr i rest hcode _ _ _ hf =>
    rcases hf.record with ⟨rfl, hsub, -⟩ | ⟨rfl, rfl, rfl⟩ | ⟨rfl, rfl, rfl, hd⟩
    · simp [hsub]
    · simp
    · simp [hd]

theorem Faults.sub_ne_fetch {i : Instr} (h : Faults s i code sub v) : sub ≠ .fetch := by
  rcases h.record with ⟨-, -, hsub⟩ | ⟨-, rfl, -⟩ | ⟨-, rfl, -⟩
  · exact hsub
  · nofun
  · nofun

/-- R35: the opcode recorded is the Word at pc, where one was fetched. -/
theorem StepFaults.opcode_fetched (h : StepFaults s code sub op v) (hsub : sub ≠ .fetch) :
    s.program[s.pc.toNat]? = some op := by
  cases h with
  | fetch => exact absurd rfl hsub
  | illegal _ tl hcode => exact program_pc_of_drop hcode
  | missing oc tl hcode => exact program_pc_of_drop hcode
  | instr i rest hcode => exact program_pc_of_code hcode

/-- R35: where no Word was fetched, the opcode recorded is 0. -/
theorem StepFaults.opcode_absent (h : StepFaults s code sub op v) (hsub : sub = .fetch) :
    op = 0 := by
  cases h with
  | fetch => rfl
  | illegal | missing => cases hsub
  | instr i rest hcode _ _ _ hf => exact absurd hsub hf.sub_ne_fetch

end

/-! SUPPORT. `firstFault`, which reads the checks of R167 off the program Words by number, agrees
with the faults of a step. -/

section
variable {s : State}

theorem wordAt_eq {ws : List Word} (h : s.program.drop s.pc.toNat = ws) (k : Nat) :
    wordAt s k = ws.getD k 0 := by
  rw [wordAt, List.getD_eq_getElem?_getD, program_getElem?_of_drop h, List.getD_eq_getElem?_getD]

theorem progLen_sub_pc {ws : List Word} (h : s.program.drop s.pc.toNat = ws) :
    s.progLen - s.pc.toNat = ws.length := by
  rw [← h, List.length_drop, State.progLen]

@[simp] theorem registerValue_regWord (s : State) (r : Reg) :
    registerValue s (regWord r) = s.x.read r := by
  cases r <;> rfl

theorem badTarget_iff (s : State) (t : Word) : badTarget s t = true ↔ ¬ ValidTarget s t := by
  rw [badTarget, ← Bool.decide_or, decide_eq_true_iff, ValidTarget, not_and_or, Int.not_le,
    Int.not_lt]

theorem badTarget_of_invalid {t : Word} (h : ¬ ValidTarget s t) : badTarget s t = true :=
  (badTarget_iff s t).2 h

theorem badTarget_of_valid {t : Word} (h : ValidTarget s t) : badTarget s t = false :=
  Bool.eq_false_iff.2 fun hbad => (badTarget_iff s t).1 hbad h

theorem atCapacity_eq (s : State) : atCapacity s = stackFull s := by
  rw [atCapacity, Bool.eq_iff_iff, decide_eq_true_iff, stackFull_iff]

theorem stackTop_eq_some_getLastD {t : Word} (h : stackTop s = some t) :
    s.stack.getLastD 0 = t := by
  rw [List.getLastD_eq_getLast?, ← stackTop, h, Option.getD_some]

/-- The map as numbers is the opcode map. -/
theorem opcodeArities_eq : opcodeArities = opcodeMap.map fun oc => (oc.word, oc.arity) := rfl

theorem lookup_opcodeArities (oc : Opcode) : opcodeArities.lookup oc.word = some oc.arity := by
  cases oc <;> decide

theorem lookup_opcodeArities_none {op : Word} (h : opcodeOfWord op = none) :
    opcodeArities.lookup op = none := by
  rw [opcodeArities_eq, List.lookup_eq_none_iff]
  intro p hp
  obtain ⟨oc, -, rfl⟩ := List.mem_map.1 hp
  exact bne_iff_ne.2 ((opcodeOfWord_eq_none_iff op).1 h oc)

/-- The record of a check that fails in the step at pc (R165). -/
def recordAt (s : State) (op : Word) (check : ErrCode × ErrSub × Word) : FaultRecord :=
  { code := check.1, sub := check.2.1, addr := s.pc, opcode := op, value := check.2.2 }

theorem recordAt_eq_fun (s : State) (op : Word) : recordAt s op = fun check =>
    { code := check.1, sub := check.2.1, addr := s.pc, opcode := op, value := check.2.2 } := rfl

theorem firstFault_fetch (h : s.program.drop s.pc.toNat = []) :
    firstFault s = some (recordAt s 0 (.outOfRange, .fetch, s.pc)) :=
  if_pos (List.drop_eq_nil_iff.1 h)

theorem not_progLen_le_pc {op : Word} {tl : List Word}
    (h : s.program.drop s.pc.toNat = op :: tl) : ¬ s.progLen ≤ s.pc.toNat := by
  intro hle
  rw [List.drop_eq_nil_of_le hle] at h
  cases h

theorem firstFault_illegal {op : Word} {tl : List Word}
    (h : s.program.drop s.pc.toNat = op :: tl) (ho : opcodeOfWord op = none) :
    firstFault s = some (recordAt s op (.invalidInstruction, .none, 0)) := by
  have hop : wordAt s 0 = op := wordAt_eq h 0
  simp only [firstFault, if_neg (not_progLen_le_pc h), hop, lookup_opcodeArities_none ho, recordAt]

theorem firstFault_missing {oc : Opcode} {tl : List Word}
    (h : s.program.drop s.pc.toNat = oc.word :: tl) (hlt : tl.length < oc.arity) :
    firstFault s =
      some (recordAt s oc.word
        (.outOfRange, .operandFetch, s.pc + BitVec.ofNat 32 (tl.length + 1))) := by
  have hop : wordAt s 0 = oc.word := wordAt_eq h 0
  have hlen := progLen_sub_pc h
  rw [List.length_cons] at hlen
  have hshort : s.progLen ≤ s.pc.toNat + oc.arity := by omega
  have haddr : s.pc + BitVec.ofNat 32 (tl.length + 1) = BitVec.ofNat 32 s.progLen := by
    have hsum : s.progLen = s.pc.toNat + (tl.length + 1) := by omega
    rw [hsum, BitVec.ofNat_add s.pc.toNat, BitVec.ofNat_toNat, BitVec.setWidth_eq]
  simp only [firstFault, if_neg (not_progLen_le_pc h), hop, lookup_opcodeArities, if_pos hshort,
    recordAt, haddr]

/-- R83: an instruction's register operands are its leading operands, at most two. -/
theorem registerOperands_leading (i : Instr) :
    registerOperandCount i.opcode.word = (registerOperands i).length ∧
      (registerOperands i).length ≤ 2 ∧ ∃ tl, i.operands = registerOperands i ++ tl := by
  cases i with
  | movr | add | sub | push | pop | print | call | jp | ret | halt | movv | jl =>
    exact ⟨rfl, by simp [registerOperands], _, rfl⟩

/-- R167: where the instruction is there in full, its register operands come first, then its own
checks. -/
theorem firstFault_of_code {i : Instr} {rest : List Word}
    (h : s.program.drop s.pc.toNat = encode i ++ rest) :
    firstFault s = (((firstBadRegister (registerOperands i)).map fun w =>
      (ErrCode.outOfRange, ErrSub.regIndex, w)).or (ownChecks s i.opcode.word)).map
        (recordAt s i.opcode.word) := by
  have hop : wordAt s 0 = i.opcode.word := wordAt_eq h 0
  have hend := code_end_le h
  have hlong : ¬ s.progLen ≤ s.pc.toNat + i.opcode.arity := by omega
  have h1 : wordAt s 1 = (i.operands ++ rest).getD 0 0 := wordAt_eq h 1
  have h2 : wordAt s 2 = (i.operands ++ rest).getD 1 0 := wordAt_eq h 2
  obtain ⟨hcount, hle, tl, htl⟩ := registerOperands_leading i
  rw [htl] at h1 h2
  simp only [firstFault, if_neg (not_progLen_le_pc h), hop, lookup_opcodeArities, if_neg hlong,
    hcount, h1, h2]
  generalize registerOperands i = regs at hle
  match regs, hle with
  | [], _ => simp [recordAt_eq_fun]
  | [w1], _ =>
    by_cases hv : RegIndexValid w1
    · obtain ⟨r, rfl⟩ := (regIndexValid_iff w1).1 hv
      simp [recordAt_eq_fun, regIndexValid_regWord]
    · simp [recordAt_eq_fun, firstBadRegister_cons_invalid, hv]
  | [w1, w2], _ =>
    by_cases hv : RegIndexValid w1
    · obtain ⟨r, rfl⟩ := (regIndexValid_iff w1).1 hv
      by_cases hv2 : RegIndexValid w2
      · obtain ⟨q, rfl⟩ := (regIndexValid_iff w2).1 hv2
        simp [recordAt_eq_fun, regIndexValid_regWord]
      · simp [recordAt_eq_fun, regIndexValid_regWord,
          firstBadRegister_cons_invalid, hv2]
    · simp [recordAt_eq_fun, firstBadRegister_cons_invalid, hv]

/-! The own checks of R167 (5), opcode by opcode and in the model's own terms. -/

theorem ownChecks_push (s : State) : ownChecks s Opcode.push.word =
    if stackFull s then some (.stackOverflow, .none, 0) else none := by
  simp [ownChecks, Opcode.word, atCapacity_eq]

theorem ownChecks_pop (s : State) : ownChecks s Opcode.pop.word =
    if stackTop s = none then some (.stackUnderflow, .none, 0) else none := by
  simp [ownChecks, Opcode.word, stackTop_eq_none_iff]

theorem ownChecks_jp (s : State) : ownChecks s Opcode.jp.word =
    if ValidTarget s (wordAt s 1) then none else some (.outOfRange, .jumpTarget, wordAt s 1) := by
  by_cases h : ValidTarget s (wordAt s 1)
  · simp [ownChecks, Opcode.word, badTarget_of_valid h, h]
  · simp [ownChecks, Opcode.word, badTarget_of_invalid h, h]

theorem ownChecks_jl (s : State) : ownChecks s Opcode.jl.word =
    if LessSigned (registerValue s (wordAt s 1)) (registerValue s (wordAt s 2)) ∧
      ¬ ValidTarget s (wordAt s 3) then some (.outOfRange, .jumpTarget, wordAt s 3) else none := by
  by_cases h : ValidTarget s (wordAt s 3)
  · simp [ownChecks, Opcode.word, badTarget_of_valid h, h]
  · simp [ownChecks, Opcode.word, badTarget_of_invalid h, h]

theorem ownChecks_call (s : State) : ownChecks s Opcode.call.word =
    if ValidTarget s (wordAt s 1) then
      if stackFull s then some (.stackOverflow, .none, 0) else none
    else some (.outOfRange, .jumpTarget, wordAt s 1) := by
  by_cases h : ValidTarget s (wordAt s 1)
  · simp [ownChecks, Opcode.word, badTarget_of_valid h, h, atCapacity_eq]
  · simp [ownChecks, Opcode.word, badTarget_of_invalid h, h, atCapacity_eq]

theorem ownChecks_ret_empty (h : stackTop s = none) :
    ownChecks s Opcode.ret.word = some (.stackUnderflow, .none, 0) := by
  simp [ownChecks, Opcode.word, (stackTop_eq_none_iff s).1 h]

theorem ownChecks_ret_top {t : Word} (h : stackTop s = some t) : ownChecks s Opcode.ret.word =
    if ValidTarget s t then none else some (.outOfRange, .retTarget, t) := by
  have hne : s.stack ≠ [] := fun hnil => by
    rw [(stackTop_eq_none_iff s).2 hnil] at h
    cases h
  have htop : s.stack.getLastD 0 = t := stackTop_eq_some_getLastD h
  by_cases hv : ValidTarget s t
  · rw [if_pos hv]
    simp only [ownChecks, Opcode.word, htop, hne, badTarget_of_valid hv]
    simp
  · rw [if_neg hv]
    simp only [ownChecks, Opcode.word, htop, hne, badTarget_of_invalid hv]
    simp

/-- The other six opcodes have no check of their own. -/
theorem ownChecks_other (s : State) {oc : Opcode}
    (h : oc ∈ [Opcode.movr, .movv, .add, .sub, .print, .halt]) : ownChecks s oc.word = none := by
  fin_cases h <;> simp [ownChecks, Opcode.word]

theorem Completes.firstBadRegister_eq_none {i : Instr} {e : Effect} (h : Completes s i e) :
    firstBadRegister (registerOperands i) = none := by
  cases h with
  | movr | movv | add | sub | push | pop | jp | jlTaken | jlNotTaken | call | ret | print | halt =>
    simp [registerOperands]

theorem Completes.ownChecks_eq_none {i : Instr} {rest : List Word} {e : Effect}
    (h : s.program.drop s.pc.toNat = encode i ++ rest) (hc : Completes s i e) :
    ownChecks s i.opcode.word = none := by
  have hw := wordAt_eq h
  cases hc with
  | movr | movv | add | sub | print | halt => exact ownChecks_other s (by simp [Instr.opcode])
  | push r room => exact (ownChecks_push s).trans (by simp [room])
  | pop d v top => exact (ownChecks_pop s).trans (by simp [top])
  | jp addr valid =>
    have h1 : wordAt s 1 = addr := hw 1
    exact (ownChecks_jp s).trans (by rw [h1, if_pos valid])
  | jlTaken a b addr less valid =>
    have h3 : wordAt s 3 = addr := hw 3
    exact (ownChecks_jl s).trans (by rw [h3, if_neg fun hbad => hbad.2 valid])
  | jlNotTaken a b addr notLess =>
    have h1 : wordAt s 1 = regWord a := hw 1
    have h2 : wordAt s 2 = regWord b := hw 2
    refine (ownChecks_jl s).trans (if_neg fun hbad => notLess ?_)
    simpa only [h1, h2, registerValue_regWord] using hbad.1
  | call addr valid room =>
    have h1 : wordAt s 1 = addr := hw 1
    exact (ownChecks_call s).trans (by simp only [h1, if_pos valid, room]; rfl)
  | ret t top valid => exact (ownChecks_ret_top top).trans (if_pos valid)

/-- A fault is found among the register operands or by the instruction's own checks. -/
theorem Faults.found {i : Instr} {rest : List Word} {code : ErrCode} {sub : ErrSub} {v : Word}
    (h : s.program.drop s.pc.toNat = encode i ++ rest) (hf : Faults s i code sub v) :
    (firstBadRegister (registerOperands i) = some v ∧ code = .outOfRange ∧ sub = .regIndex) ∨
    (firstBadRegister (registerOperands i) = none ∧
      ownChecks s i.opcode.word = some (code, sub, v)) := by
  have hw := wordAt_eq h
  cases hf with
  | badRegister i w first => exact .inl ⟨first, rfl, rfl⟩
  | pushFull r full =>
    exact .inr ⟨firstBadRegister_cons_regWord r [], (ownChecks_push s).trans (if_pos full)⟩
  | popEmpty d empty =>
    exact .inr ⟨firstBadRegister_cons_regWord d [], (ownChecks_pop s).trans (if_pos empty)⟩
  | jpTarget addr invalid =>
    have h1 : wordAt s 1 = v := hw 1
    exact .inr ⟨rfl, (ownChecks_jp s).trans (by rw [h1, if_neg invalid])⟩
  | jlTarget a b addr less invalid =>
    have h1 : wordAt s 1 = regWord a := hw 1
    have h2 : wordAt s 2 = regWord b := hw 2
    have h3 : wordAt s 3 = v := hw 3
    refine .inr ⟨by simp [registerOperands], (ownChecks_jl s).trans ?_⟩
    rw [h1, h2, h3, registerValue_regWord, registerValue_regWord, if_pos ⟨less, invalid⟩]
  | callTarget addr invalid =>
    have h1 : wordAt s 1 = v := hw 1
    exact .inr ⟨rfl, (ownChecks_call s).trans (by rw [h1, if_neg invalid])⟩
  | callFull addr valid full =>
    have h1 : wordAt s 1 = addr := hw 1
    exact .inr ⟨rfl, (ownChecks_call s).trans (by rw [h1, if_pos valid, if_pos full])⟩
  | retEmpty empty => exact .inr ⟨rfl, ownChecks_ret_empty empty⟩
  | retTarget t top invalid => exact .inr ⟨rfl, (ownChecks_ret_top top).trans (if_neg invalid)⟩

theorem firstFault_of_completes {i : Instr} {rest : List Word} {e : Effect}
    (h : s.program.drop s.pc.toNat = encode i ++ rest) (hc : Completes s i e) :
    firstFault s = none := by
  rw [firstFault_of_code h, hc.firstBadRegister_eq_none, hc.ownChecks_eq_none h]
  rfl

/-- R167: the record of a step's fault is the one read off the program Words. -/
theorem firstFault_of_stepFaults {code : ErrCode} {sub : ErrSub} {op v : Word}
    (h : StepFaults s code sub op v) : firstFault s = some (recordAt s op (code, sub, v)) := by
  cases h with
  | fetch past => exact firstFault_fetch past
  | illegal op tl hcode unknown => exact firstFault_illegal hcode unknown
  | missing oc tl hcode short => exact firstFault_missing hcode short
  | instr i rest hcode _ _ _ hf =>
    rw [firstFault_of_code hcode]
    rcases hf.found hcode with ⟨hbad, rfl, rfl⟩ | ⟨hgood, hown⟩
    · rw [hbad]
      rfl
    · rw [hgood, hown]
      rfl

end

/-! PROOF. The invariant: it holds at the start of a run, a step and a host action keep it. -/

section
variable {s : State}

theorem inv_startOfRun (h : Memory.wf s.program) : Inv (startOfRun s) where
  program_bounded := h
  pc_in_reach := Nat.zero_le _
  depth_bounded := fun n _ => Nat.zero_le n
  errored_iff := by simp [FaultRecord.clear]
  sub_iff := by simp [FaultRecord.clear]
  overflow_finite := nofun
  record_clear := fun _ => rfl
  addr_is_pc := nofun
  opcode_fetched := nofun
  opcode_absent := nofun
  value_absent := fun _ => rfl
  halted_at_halt := nofun

/-- The invariant does not speak of the beat nor of the level of `stop_req`. -/
theorem Inv.set_beat_stopReq (h : Inv s) (beat : Option Word) (level : Bool) :
    Inv { s with outBeat := beat, stopReq := level } :=
  { h with }

theorem Inv.record_of_running (h : Inv s) (hrun : s.runState = .running) :
    s.err = FaultRecord.clear := by
  refine h.record_clear (by_contra fun hne => ?_)
  rw [h.errored_iff.2 hne] at hrun
  cases hrun

/-- R163: an entry is only put on a stack that has room for it. -/
theorem Inv.depth_bounded_completes (h : Inv s) {i : Instr} {e : Effect} (hc : Completes s i e) :
    ∀ n, s.params.stackDepth = .finite n → (e.stack.apply s.stack).length ≤ n := by
  intro n hn
  have hle := h.depth_bounded n hn
  rcases hc.stack_cases with heq | ⟨v, heq, room, -⟩ | ⟨v, heq, -, -⟩ <;> rw [heq]
  · exact hle
  · have hne : s.stack.length ≠ n := by
      rintro rfl
      rw [(stackFull_iff s).2 hn] at room
      cases room
    simp only [stackOp_push, List.length_append, List.length_singleton]
    omega
  · simp only [stackOp_pop, List.length_dropLast]
    omega

/-- R25: pc goes no further than the end of the instruction or a valid target. -/
theorem Inv.pc_in_reach_completes (h : Inv s) {i : Instr} {rest : List Word} {e : Effect}
    (hcode : s.program.drop s.pc.toNat = encode i ++ rest) (hc : Completes s i e) :
    (nextPc e.next s.pc).toNat ≤ s.progLen := by
  rcases hc.next_cases with ⟨-, -, heq⟩ | ⟨-, -, heq | ⟨a, ha, heq, -⟩ | ⟨t, ht, heq, -⟩⟩ <;>
    rw [heq]
  · exact h.pc_in_reach
  · have hend := code_end_le hcode
    have hbound : s.progLen ≤ 2147483647 := h.program_bounded
    rw [nextPc_seq, BitVec.toNat_add, BitVec.toNat_ofNat]
    omega
  · exact (validTarget_toNat_lt ha).le
  · exact (validTarget_toNat_lt ht).le

theorem Inv.of_completes (h : Inv s) (hrun : s.runState = .running) {i : Instr} {rest : List Word}
    {e : Effect} (hcode : s.program.drop s.pc.toNat = encode i ++ rest) (hc : Completes s i e) :
    Inv (commit e s) := by
  have hclear := h.record_of_running hrun
  have hne := commit_not_errored e hrun
  exact
  { program_bounded := h.program_bounded
    pc_in_reach := h.pc_in_reach_completes hcode hc
    depth_bounded := h.depth_bounded_completes hc
    errored_iff := iff_of_false hne (by simp [hclear, FaultRecord.clear])
    sub_iff := h.sub_iff
    overflow_finite := h.overflow_finite
    record_clear := fun _ => hclear
    addr_is_pc := fun he => absurd he hne
    opcode_fetched := fun he => absurd he hne
    opcode_absent := h.opcode_absent
    value_absent := h.value_absent
    halted_at_halt := by
      intro hh
      rcases hc.next_cases with ⟨rfl, -, hhold⟩ | ⟨-, hnot, -⟩
      · rw [commit_pc, hhold]
        exact program_pc_of_code hcode
      · rw [commit_runState, hnot, hrun] at hh
        cases hh }

theorem Inv.of_stepFaults (h : Inv s) {code : ErrCode} {sub : ErrSub} {op v : Word}
    (hf : StepFaults s code sub op v) : Inv (enterFault code sub op v s) := by
  obtain ⟨hcode, hsub, hvalue, hover⟩ := hf.record
  exact
  { program_bounded := h.program_bounded
    pc_in_reach := h.pc_in_reach
    depth_bounded := h.depth_bounded
    errored_iff := iff_of_true rfl hcode
    sub_iff := hsub
    overflow_finite := hover
    record_clear := fun he => absurd he hcode
    addr_is_pc := fun _ => rfl
    opcode_fetched := fun _ => hf.opcode_fetched
    opcode_absent := hf.opcode_absent
    value_absent := hvalue
    halted_at_halt := nofun }

/-- Settles O2: reset is the start of a run over the empty program. -/
theorem resetMeetsInvariant : Obligations.ResetMeetsInvariant :=
  inv_startOfRun (s := State.reset) reset_program_wf

/-- Settles O3: by the cases of the step, an instruction that completes and each fault keep it. -/
theorem stepKeepsInvariant : Obligations.StepKeepsInvariant := by
  intro s t hinv h
  rcases step_next_cases h with ⟨-, rfl⟩ | ⟨-, -, rfl⟩ | hr
  · exact inv_startOfRun hinv.program_bounded
  · exact hinv.set_beat_stopReq none s.stopReq
  · rcases step_ready_next_cases hr h with
      ⟨i, rest, e, hcode, hc, rfl⟩ | ⟨code, sub, op, v, hf, rfl⟩
    · exact hinv.of_completes hr.running hcode hc
    · exact hinv.of_stepFaults hf

theorem hostLoad_reset (words : List Word) (h : s.rst = true) :
    hostLoad words s = .next (startOfRun { s with program := words }) :=
  if_pos h

theorem hostLoad_running (words : List Word) (hr : s.rst = false) (h : s.runState = .running) :
    hostLoad words s = .refused .programStoreChanged := by
  simp [hostLoad, hr, h]

theorem hostSetStop_present (level : Bool) (h : s.params.hasStopReq = true) :
    hostSetStop level s = .next { s with stopReq := level } :=
  if_pos h

theorem hostSetStop_absent (level : Bool) (h : s.params.hasStopReq = false) :
    hostSetStop level s = .refused .noStopPort := by
  simp [hostSetStop, h]

/-- R180: driving `rst` gives the start of a run, but where a level that is low is driven low. -/
theorem hostSetRst_cases (level : Bool) (s : State) :
    hostSetRst level s = .next (startOfRun { s with rst := level }) ∨
    hostSetRst level s = .next s := by
  cases level with
  | true => exact .inl rfl
  | false =>
    by_cases h : s.rst = true
    · exact .inl (if_pos h)
    · exact .inr (if_neg h)

/-- Settles O4: a load or a change of `rst` gives the start of a run, and `stop_req` is no
part of the invariant. -/
theorem hostActionKeepsInvariant : Obligations.HostActionKeepsInvariant := by
  intro act s t hinv hload h
  cases act with
  | load words =>
    obtain ⟨hrst, hwf⟩ := hload words rfl
    rw [hostAct, hostLoad_reset words hrst] at h
    cases h
    exact inv_startOfRun hwf
  | setRst level =>
    rw [hostAct] at h
    rcases hostSetRst_cases level s with heq | heq <;> rw [heq] at h <;> cases h
    · exact inv_startOfRun hinv.program_bounded
    · exact hinv
  | setStop level =>
    rw [hostAct] at h
    rcases hp : s.params.hasStopReq
    · rw [hostSetStop_absent level hp] at h
      cases h
    · rw [hostSetStop_present level hp] at h
      cases h
      exact hinv.set_beat_stopReq s.outBeat level

end

/-! PROOF. The obligations about the single instruction: registers and stack. -/

section
variable {s : State} {i : Instr}

theorem applyWrite_read_ne {e : Effect} (h : Completes s i e) {r : Reg}
    (hne : (applyWrite e.write s.x).read r ≠ s.x.read r) :
    registerWritten i = some (regWord r) := by
  rcases h.write_cases with hw | ⟨d, v, hw, hreg⟩ <;> rw [hw] at hne
  · exact absurd rfl hne
  · have hrd : r = d := by_contra fun hrd => hne (read_write_other s.x v hrd)
    rw [hrd, hreg]

/-- A write to r is seen nowhere but in r, also after the same write to another register. -/
theorem applyWrite_read_other (w : Option (Reg × Word)) (x : RegFile) {q r : Reg} (v : Word)
    (h : q ≠ r) : (applyWrite w (x.write r v)).read q = (applyWrite w x).read q := by
  rcases w with _ | ⟨d, u⟩
  · exact read_write_other x v h
  · by_cases hqd : q = d
    · subst hqd
      rw [applyWrite_some, applyWrite_some, read_write_same, read_write_same]
    · rw [applyWrite_some, applyWrite_some, read_write_other _ u hqd, read_write_other _ v h,
        read_write_other _ u hqd]

theorem sameInputs_write {r : Reg} (v : Word) (h : regWord r ∉ registersRead i) :
    SameInputs i s { s with x := s.x.write r v } where
  reads _ hq := read_write_other s.x v fun hqr => h (hqr ▸ hq)
  pc := rfl
  progLen := rfl
  full := rfl
  top := rfl

/-- R30: only the top of the stack and, for a finite STACK_DEPTH, the depth matter. -/
theorem sameInputs_below {below other : List Word} (top : Word)
    (h : s.params.stackDepth = .unbounded ∨ below.length = other.length) :
    SameInputs i { s with stack := below ++ [top] } { s with stack := other ++ [top] } where
  reads _ _ := rfl
  pc := rfl
  progLen := rfl
  full := by
    rcases h with h | h
    · simp [stackFull, h]
    · simp [stackFull, h]
  top := by simp [stackTop]

theorem stackOp_apply_append (op : StackOp) (below : List Word) (top : Word) :
    op.apply (below ++ [top]) = below ++ op.apply [top] := by
  cases op with
  | keep => rfl
  | push v => exact List.append_assoc below [top] [v]
  | pop => simp

end

/-- Settles O31: a completed instruction writes at most its register of the table, and how it ends
depends on no register but those it reads. -/
theorem registersReadAndWritten : Obligations.RegistersReadAndWritten := by
  constructor
  · intro i s t hrun h
    rcases exec_next_cases h with ⟨e, hc, rfl⟩ | ⟨code, sub, v, -, rfl⟩
    · exact ⟨fun r hne => applyWrite_read_ne hc hne,
        fun herr => absurd herr (commit_not_errored _ hrun)⟩
    · exact ⟨fun r hne => absurd rfl hne, fun _ => rfl⟩
  · intro i s r v hr
    rcases exec_cases_of_sameInputs (sameInputs_write (s := s) v hr) with
      ⟨e, -, hs, ht⟩ | ⟨code, sub, w, hs, ht⟩
    · exact ⟨_, _, hs, ht, rfl, rfl, rfl, rfl, rfl, rfl, rfl,
        fun q hq => applyWrite_read_other e.write s.x v hq⟩
    · exact ⟨_, _, hs, ht, rfl, rfl, rfl, rfl, rfl, rfl, rfl, fun q hq => read_write_other s.x v hq⟩

/-- Settles O32, by the stack change of an instruction that completes; a fault makes none. -/
theorem stackChangesOnlyAtTop : Obligations.StackChangesOnlyAtTop := by
  intro i s t h
  rcases exec_next_cases h with ⟨e, hc, rfl⟩ | ⟨code, sub, v, -, rfl⟩
  · rcases hc.stack_cases with heq | ⟨v, heq, -, hop⟩ | ⟨v, heq, htop, hop⟩ <;>
      simp only [commit_stack, heq]
    · exact .inl rfl
    · exact .inr (.inl ⟨v, rfl, hop⟩)
    · exact .inr (.inr ⟨v, (stackTop_eq_some_iff s v).1 htop, hop⟩)
  · exact .inl rfl

/-- Settles O33: the two stacks give the instruction the same inputs. -/
theorem entriesBelowTopUnread : Obligations.EntriesBelowTopUnread := by
  intro i s t below other top hdepth h
  rcases exec_cases_of_sameInputs (sameInputs_below (i := i) top hdepth) with
    ⟨e, -, hs, ht⟩ | ⟨code, sub, v, hs, ht⟩ <;> rw [hs] at h <;> cases h
  · refine ⟨e.stack.apply [top], stackOp_apply_append e.stack below top, ?_⟩
    rw [ht, ← stackOp_apply_append]
    rfl
  · exact ⟨[top], rfl, ht⟩

/-! PROOF. The obligations about a step. -/

section
variable {s t : State}

/-- R44: a step that shows a beat has executed a PRINT, in a core that takes a step. -/
theorem print_of_outBeat {v : Word} (hrst : s.rst = false) (h : step s = .next t)
    (hbeat : t.outBeat = some v) :
    ∃ r rest, s.program.drop s.pc.toNat = encode (.print (regWord r)) ++ rest ∧ v = s.x.read r := by
  rcases step_next_cases h with ⟨hrst', -⟩ | ⟨-, -, rfl⟩ | hr
  · rw [hrst] at hrst'
    cases hrst'
  · cases hbeat
  · rcases step_ready_next_cases hr h with
      ⟨i, rest, e, hcode, hc, rfl⟩ | ⟨code, sub, op, w, -, rfl⟩
    · rw [commit_outBeat] at hbeat
      rcases hc.emit_cases with hnone | ⟨r, rfl, hemit⟩
      · rw [hnone] at hbeat
        cases hbeat
      · rw [hemit] at hbeat
        cases hbeat
        exact ⟨r, rest, hcode, rfl⟩
    · cases hbeat

theorem out_of_step (hrst : s.rst = false) (h : step s = .next t) :
    t.out = s.out ++ t.outBeat.toList := by
  rcases step_next_cases h with ⟨hrst', -⟩ | ⟨-, -, rfl⟩ | hr
  · rw [hrst] at hrst'
    cases hrst'
  · exact (List.append_nil s.out).symm
  · rcases step_ready_next_cases hr h with
      ⟨i, rest, e, -, -, rfl⟩ | ⟨code, sub, op, w, -, rfl⟩
    · rfl
    · exact (List.append_nil s.out).symm

theorem drop_of_program_pc {op : Word} (h : s.program[s.pc.toNat]? = some op) :
    s.program.drop s.pc.toNat = op :: s.program.drop (s.pc.toNat + 1) := by
  obtain ⟨hlt, rfl⟩ := List.getElem?_eq_some_iff.1 h
  exact List.drop_eq_getElem_cons hlt

/-- R152: HALT is the only way to HALTED. -/
theorem step_halted_iff (hr : Ready s) (h : step s = .next t) :
    t.runState = .halted ↔ s.program[s.pc.toNat]? = some 255 := by
  have hrun := hr.running
  constructor
  · intro hh
    rcases step_ready_next_cases hr h with
      ⟨i, rest, e, hcode, hc, rfl⟩ | ⟨code, sub, op, v, -, rfl⟩
    · rcases hc.next_cases with ⟨rfl, -, -⟩ | ⟨-, hnot, -⟩
      · exact program_pc_of_code hcode
      · rw [commit_runState, hnot, hrun] at hh
        cases hh
    · cases hh
  · intro h255
    have hcode : s.program.drop s.pc.toNat = encode .halt ++ s.program.drop (s.pc.toNat + 1) :=
      drop_of_program_pc h255
    rw [step_of_code hr hcode, exec_of_completes .halt] at h
    cases h
    rfl

theorem step_errored_iff (hr : Ready s) (h : step s = .next t) :
    t.runState = .errored ↔ firstFault s ≠ none := by
  have hrun := hr.running
  rcases step_ready_next_cases hr h with
    ⟨i, rest, e, hcode, hc, rfl⟩ | ⟨code, sub, op, v, hf, rfl⟩
  · exact iff_of_false (commit_not_errored _ hrun) fun hne => hne (firstFault_of_completes hcode hc)
  · rw [firstFault_of_stepFaults hf]
    exact iff_of_true rfl nofun

/-- R26, R85: where pc goes, by the way the step ends. -/
theorem pc_of_step (hr : Ready s) (h : step s = .next t) :
    (t.runState ≠ .running ∧ t.pc = s.pc) ∨
    (t.runState = .running ∧ ∃ i rest, s.program.drop s.pc.toNat = encode i ++ rest ∧
      (t.pc = s.pc + BitVec.ofNat 32 (1 + i.opcode.arity) ∨
       (∃ a, (i = .jp a ∨ i = .call a ∨ ∃ p q, i = .jl p q a) ∧ t.pc = a) ∨
       (i = .ret ∧ stackTop s = some t.pc))) := by
  have hrun := hr.running
  rcases step_ready_next_cases hr h with
    ⟨i, rest, e, hcode, hc, rfl⟩ | ⟨code, sub, op, v, -, rfl⟩
  · rw [commit_runState, commit_pc]
    rcases hc.next_cases with ⟨-, hhalt, hnext⟩ | ⟨-, hhalt, hnext⟩
    · rw [hhalt, hnext]
      exact .inl ⟨nofun, rfl⟩
    · refine .inr ⟨by simp [hhalt, hrun], i, rest, hcode, ?_⟩
      rcases hnext with hseq | ⟨a, -, htarget, hi⟩ | ⟨v, -, hstack, hi, htop⟩
      · exact .inl (by rw [hseq, nextPc_seq])
      · exact .inr (.inl ⟨a, hi, by rw [htarget, nextPc_target]⟩)
      · exact .inr (.inr ⟨hi, by rw [hstack, nextPc_stack, htop]⟩)
  · exact .inl ⟨nofun, rfl⟩

theorem memRead_error_iff (a : Nat) (s : State) :
    (∃ f, memRead a s = .error f) ↔ s.progLen ≤ a := by
  constructor
  · rintro ⟨f, hf⟩
    by_contra hlt
    rw [memRead_lt s (Nat.lt_of_not_le hlt)] at hf
    cases hf
  · exact fun h => ⟨_, memRead_ge s h⟩

/-- A step answers next or refuses a program that is too long; it ends in no fault of the model. -/
theorem step_next_or_refused (s : State) :
    (∃ t, step s = .next t) ∨ (¬ Memory.wf s.program ∧ step s = .refused .programTooLong) := by
  rcases step_cases s with ⟨-, heq⟩ | ⟨-, -, heq⟩ | ⟨hr, -⟩ | hrefused
  · exact .inl ⟨_, heq⟩
  · exact .inl ⟨_, heq⟩
  · rcases step_ready_cases hr with ⟨i, rest, e, -, -, heq⟩ | ⟨code, sub, op, v, -, heq⟩
    · exact .inl ⟨_, heq⟩
    · exact .inl ⟨_, heq⟩
  · exact .inr hrefused

theorem sameInputs_stopReq (i : Instr) (s : State) (level : Bool) :
    SameInputs i s { s with stopReq := level } where
  reads _ _ := rfl
  pc := rfl
  progLen := rfl
  full := rfl
  top := rfl

/-- A fault of the step does not depend on the level of `stop_req`. -/
theorem StepFaults.set_stopReq {code : ErrCode} {sub : ErrSub} {op v : Word} (level : Bool)
    (h : StepFaults s code sub op v) : StepFaults { s with stopReq := level } code sub op v := by
  cases h with
  | fetch past => exact .fetch past
  | illegal op tl hcode unknown => exact .illegal op tl hcode unknown
  | missing oc tl hcode short => exact .missing oc tl hcode short
  | instr i rest hcode _ _ _ hf =>
    exact .instr (s := { s with stopReq := level }) i rest hcode code sub v
      (hf.congr (sameInputs_stopReq i s level))

theorem step_set_stopReq (level : Bool) (hport : s.params.hasStopReq = false)
    (h : step s = .next t) :
    step { s with stopReq := level } = .next { t with stopReq := level } := by
  have hstop (u : State) (hu : u.params.hasStopReq = false) : stopRequested u = false := by
    simp [stopRequested, hu]
  rcases step_next_cases h with ⟨hrst, rfl⟩ | ⟨hrst, hwhy, rfl⟩ | hr
  · exact step_reset { s with stopReq := level } hrst
  · have hended : Ended s := hwhy.resolve_right (by simp [hstop s hport])
    exact step_ended { s with stopReq := level } hrst hended
  · obtain ⟨hrst, hrun, -, hwf⟩ := id hr
    have hr' : Ready { s with stopReq := level } := ⟨hrst, hrun, hstop _ hport, hwf⟩
    rcases step_ready_next_cases hr h with
      ⟨i, rest, e, hcode, hc, rfl⟩ | ⟨code, sub, op, v, hf, rfl⟩
    · rw [step_of_code hr' hcode, exec_of_completes (hc.congr (sameInputs_stopReq i s level))]
      rfl
    · rw [step_of_stepFaults hr' (hf.set_stopReq level)]
      rfl

end

/-- Settles O34: a beat is a PRINT's, and every step appends its beat. -/
theorem outputGrowsOnlyByPrint : Obligations.OutputGrowsOnlyByPrint := by
  refine ⟨rfl, fun s t => out_of_step, fun s t v hrst h hbeat => ?_, fun s r rest hr hd => ?_,
    fun s t hr h herr => ?_⟩
  · obtain ⟨r, rest, hcode, rfl⟩ := print_of_outBeat hrst h hbeat
    exact ⟨r, program_pc_of_code hcode, program_getElem?_of_drop hcode 1, rfl⟩
  · exact ⟨_, by rw [step_of_code hr (decode_eq_ok hd), exec_of_completes (.print r)], rfl⟩
  · obtain ⟨-, hrun, -, -⟩ := id hr
    rcases step_ready_next_cases hr h with
      ⟨i, rest, e, -, -, rfl⟩ | ⟨code, sub, op, v, -, rfl⟩
    · exact absurd herr (commit_not_errored _ hrun)
    · rfl

/-- Settles O36: where step answers no next state, it refuses a program that is too long. -/
theorem stepNeverReadsOutsideStore : Obligations.StepNeverReadsOutsideStore := by
  refine ⟨memRead_error_iff, fun a s w h => by rw [memRead, h], fun s hwf => ?_, fun s f hf => ?_⟩
  · exact (step_next_or_refused s).resolve_right fun hlong => hlong.1 hwf
  · rcases step_next_or_refused s with ⟨t, heq⟩ | ⟨-, heq⟩ <;> rw [heq] at hf <;> cases hf

/-- Settles O39, by the next-pc select of the instruction that completes. -/
theorem pcAdvancesOrTransfers : Obligations.PcAdvancesOrTransfers := by
  intro s t hr h
  rcases pc_of_step hr h with ⟨hne, hpc⟩ | ⟨hrun, i, rest, hcode, hpc⟩
  · exact ⟨fun _ => hpc, fun hrun => absurd hrun hne⟩
  · exact ⟨fun hne => absurd hrun hne, fun _ => ⟨i, rest, by rw [hcode, decode_encode], hpc⟩⟩

/-- Settles O40: HALTED comes from a HALT, ERRORED from the first check that fails. -/
theorem runStateTransitions : Obligations.RunStateTransitions := by
  refine ⟨rfl, rfl, rfl, rfl, fun r => ?_, fun s t hr h => ?_, fun s t hrst hne h => ?_⟩
  · cases r <;> decide
  · exact ⟨step_halted_iff hr h, step_errored_iff hr h⟩
  · rw [step_ended s hrst hne] at h
    cases h
    rfl

/-- Settles O44: no instruction and no fault reads the level of `stop_req`. -/
theorem stopRequestWithholdsSteps : Obligations.StopRequestWithholdsSteps := by
  refine ⟨fun s hrst hport hstop => ?_, fun s t level => step_set_stopReq level,
    fun s level => hostSetStop_present level, fun s level => hostSetStop_absent level⟩
  by_cases hrun : s.runState = .running
  · exact step_stopped s hrst hrun (by simp [stopRequested, hport, hstop])
  · exact step_ended s hrst hrun

/-- Settles O29: a valid operand is one for which the operand check finds a register. -/
theorem validRegisterOperandsAreFour : Obligations.ValidRegisterOperandsAreFour :=
  ⟨regIndexValid_iff, by decide, by decide, by decide, by decide⟩

/-- Settles O30, by the register file's read-after-write laws. -/
theorem registerFileReadsLastWrite : Obligations.RegisterFileReadsLastWrite := by
  refine ⟨fun x r q v => ?_, fun x y h => ?_⟩
  · split
    · next heq => rw [heq, read_write_same]
    · next hne => exact read_write_other x v hne
  · obtain ⟨x0, x1, x2, x3⟩ := x
    obtain ⟨y0, y1, y2, y3⟩ := y
    obtain rfl : x0 = y0 := h .r0
    obtain rfl : x1 = y1 := h .r1
    obtain rfl : x2 = y2 := h .r2
    obtain rfl : x3 = y3 := h .r3
    rfl

/-- Settles O45, by the two cases of a load. -/
theorem hostLoadsOnlyOutsideARun : Obligations.HostLoadsOnlyOutsideARun :=
  ⟨fun _ ws => hostLoad_reset ws, fun _ ws => hostLoad_running ws⟩

/-- Settles O46: the ports are projections of the state. -/
theorem portsShowStateAndCodes : Obligations.PortsShowStateAndCodes :=
  ⟨rfl, rfl, fun _ => ⟨rfl, rfl, rfl, rfl, rfl, rfl, rfl, Option.isSome_iff_ne_none, rfl⟩⟩

end Sys2Proof.Machine

/-! SUPPORT. The Program Store and the parameters along an instruction and along a step (R8, R52). -/

namespace Sys2Proof.Machine

section
variable {s t : State}

/-- Neither the commit of an instruction nor the entry of its fault writes the store. -/
theorem exec_keeps_program_params {i : Instr} (h : exec i s = .next t) :
    t.program = s.program ∧ t.params = s.params := by
  rcases exec_next_cases h with ⟨e, -, rfl⟩ | ⟨code, sub, v, -, rfl⟩
  · exact ⟨commit_program .., commit_params ..⟩
  · exact ⟨enterFault_program .., enterFault_params ..⟩

/-- R181: a step under reset keeps the loaded program too. -/
theorem step_keeps_program_params (h : step s = .next t) :
    t.program = s.program ∧ t.params = s.params := by
  rcases step_next_cases h with ⟨-, rfl⟩ | ⟨-, -, rfl⟩ | hr
  · exact ⟨startOfRun_program .., startOfRun_params ..⟩
  · exact ⟨noStep_program .., noStep_params ..⟩
  · rcases step_ready_next_cases hr h with ⟨i, rest, e, -, -, rfl⟩ | ⟨code, sub, op, v, -, rfl⟩
    · exact ⟨commit_program .., commit_params ..⟩
    · exact ⟨enterFault_program .., enterFault_params ..⟩

theorem memRead_eq_of_program_eq (a : Nat) (h : t.program = s.program) :
    memRead a t = memRead a s := by
  rw [memRead, memRead, h]

theorem progLen_eq_of_program_eq (h : t.program = s.program) : t.progLen = s.progLen :=
  congrArg List.length h

end

/-- Settles O35: the program is kept by every way a step can end, so every read of it is. -/
theorem programStoreNeverWritten : Obligations.ProgramStoreNeverWritten := by
  refine ⟨fun i s t => exec_keeps_program_params, fun s t h => ?_⟩
  obtain ⟨hprog, hparams⟩ := step_keeps_program_params h
  exact ⟨fun a => memRead_eq_of_program_eq a hprog, progLen_eq_of_program_eq hprog, hparams⟩

end Sys2Proof.Machine

/-! SUPPORT. The fault of a step in the spec's own words, and what an instruction does to RUN_STATE. -/

namespace Sys2Proof.Machine

section
variable {s : State}

theorem step_eq_erroredFrom {code : ErrCode} {sub : ErrSub} {op v : Word} (hr : Ready s)
    (h : StepFaults s code sub op v) : step s = .next (erroredFrom s code sub op v) := by
  rw [step_of_stepFaults hr h, enterFault_eq_erroredFrom]

theorem Faults.code_ne_none {i : Instr} {code : ErrCode} {sub : ErrSub} {v : Word}
    (h : Faults s i code sub v) : code ≠ .none := by
  rcases h.record with ⟨rfl, -⟩ | ⟨rfl, -⟩ | ⟨rfl, -⟩ <;> nofun

theorem commit_runState_cases (e : Effect) (s : State) :
    (commit e s).runState = s.runState ∨ (commit e s).runState = .halted := by
  rw [commit_runState]
  split
  · exact .inr rfl
  · exact .inl rfl

/-- R79: an opcode at pc whose operands the program does not hold in full. -/
theorem truncatedFaults (oc : Opcode) : TruncatedFaults oc.word oc.arity := by
  intro s k hr hop hk hle hend
  have hlen : (s.program.drop (s.pc.toNat + 1)).length + 1 = k := by
    rw [List.length_drop]
    unfold State.progLen at hend
    omega
  have hfault := StepFaults.missing oc _ (drop_of_program_pc hop) (by omega)
  have haddr : s.pc + BitVec.ofNat 32 k = BitVec.ofNat 32 (s.pc.toNat + k) := by
    rw [BitVec.ofNat_add, BitVec.ofNat_toNat, BitVec.setWidth_eq]
  rw [hlen, haddr] at hfault
  exact step_eq_erroredFrom hr hfault

end

/-! PROOF. The encoding: decoding and encoding invert each other, a step runs the instruction decoded at
pc, and what is missing or names no register enters its fault (R70 to R80). -/

/-- Settles O5: the opcode Word selects the format, which takes exactly the operand Words. -/
theorem decodeInvertsEncode : Obligations.DecodeInvertsEncode :=
  decode_encode

/-- Settles O6: the opcode Word read is that of the opcode found, and each format keeps its Words. -/
theorem encodeInvertsDecode : Obligations.EncodeInvertsDecode :=
  fun _ _ _ => decode_eq_ok

/-- Settles O7: the Words written out are the encodings of the twelve instructions. -/
theorem opcodeMapWordsDecode : Obligations.OpcodeMapWordsDecode :=
  ⟨decode_encode (.movr 0 2) [], decode_encode (.movv 1 42) [], decode_encode (.add 0 1) [],
    decode_encode (.sub 2 3) [], decode_encode (.push 3) [], decode_encode (.pop 2) [],
    decode_encode (.jp 5) [], decode_encode (.jl 2 0 9) [], decode_encode (.call 17) [],
    decode_encode .ret [], decode_encode (.print 1) [], decode_encode .halt []⟩

/-- Settles O8: the Words fetched decode as all Words from pc on do. -/
theorem stepRunsDecodedInstruction : Obligations.StepRunsDecodedInstruction :=
  fun _ _ _ hr hd => step_of_code hr (decode_eq_ok hd)

/-- Settles O10: at or beyond PROG_LEN no Word is left from pc on. -/
theorem fetchBeyondProgramEntersFault : Obligations.FetchBeyondProgramEntersFault := by
  intro s hr hge
  have hpast : s.program.drop s.pc.toNat = [] := List.drop_eq_nil_of_le hge
  exact ⟨step_eq_erroredFrom hr (.fetch hpast), fetchInstr_nil hpast⟩

/-- Settles O11: each row of the map is an opcode with its arity. -/
theorem missingOperandEntersFault : Obligations.MissingOperandEntersFault := by
  intro p hp
  rw [opcodeArities_eq] at hp
  obtain ⟨oc, -, rfl⟩ := List.mem_map.1 hp
  exact truncatedFaults oc

/-- Settles O12: the register check stands first in each meaning. -/
theorem badRegisterOperandEntersFault : Obligations.BadRegisterOperandEntersFault := by
  intro s i rest w hr hd hbad
  exact step_eq_erroredFrom hr
    (.instr i rest (decode_eq_ok hd) _ _ w (.badRegister i w hbad))

/-- Settles O37: an instruction commits its effect, or enters one of its faults. -/
theorem everyInstructionAnswersNext : Obligations.EveryInstructionAnswersNext := by
  intro i s
  rcases exec_cases s i with ⟨e, -, heq⟩ | ⟨code, sub, v, hf, heq⟩
  · refine ⟨_, heq, ?_⟩
    rcases commit_runState_cases e s with hkeep | hhalt
    · exact .inl hkeep
    · exact .inr (.inl hhalt)
  · exact ⟨_, heq, .inr (.inr ⟨code, sub, v, hf.code_ne_none, enterFault_eq_erroredFrom ..⟩)⟩

end Sys2Proof.Machine

/-! SUPPORT. What an instruction answers whose effect is one register write, and one with a bad register
operand, in the spec's own words. -/

namespace Sys2Proof.Machine

section
variable {s : State} {i : Instr}

/-- R88: an effect that writes one register and goes on to the next instruction, with its frame. -/
theorem commit_write_seq (d : Reg) (v n : Word) (s : State) :
    commit { write := some (d, v), next := .seq n } s =
      { s with x := s.x.write d v, pc := s.pc + n, outBeat := none } := by
  simp [commit]

theorem exec_badRegister_eq_erroredFrom {w : Word}
    (h : firstBadRegister (registerOperands i) = some w) :
    exec i s = .next (erroredFrom s .outOfRange .regIndex i.opcode.word w) := by
  rw [exec_badRegister h, enterFault_eq_erroredFrom]

theorem exec_firstRegister_invalid {w : Word} {ws : List Word} (hregs : registerOperands i = w :: ws)
    (h : ¬ RegIndexValid w) :
    exec i s = .next (erroredFrom s .outOfRange .regIndex i.opcode.word w) :=
  exec_badRegister_eq_erroredFrom (by rw [hregs, firstBadRegister_cons_invalid ws h])

/-- R80: the second register operand decides where the first names a register. -/
theorem exec_secondRegister_invalid {r : Reg} {w : Word} {ws : List Word}
    (hregs : registerOperands i = regWord r :: w :: ws) (h : ¬ RegIndexValid w) :
    exec i s = .next (erroredFrom s .outOfRange .regIndex i.opcode.word w) :=
  exec_badRegister_eq_erroredFrom
    (by rw [hregs, firstBadRegister_cons_regWord, firstBadRegister_cons_invalid ws h])

end

/-! PROOF. Data movement: MOVR and MOVV (R100, R101). -/

/-- Settles O14: MOVR completes with the write of the source's value, and its register operands are
checked in order. -/
theorem movrCopiesRegister : Obligations.MovrCopiesRegister := by
  refine ⟨fun dst src => decode_encode (.movr dst src), fun s d r => ?_, fun s dst src hdst => ?_,
    fun s d src hsrc => ?_, truncatedFaults .movr⟩
  · rw [exec_of_completes (.movr d r), commit_write_seq]
  · exact exec_firstRegister_invalid (i := .movr dst src) rfl hdst
  · exact exec_secondRegister_invalid (i := .movr (regWord d) src) rfl hsrc

/-- Settles O15: MOVV completes with the write of any literal; only its destination is checked. -/
theorem movvLoadsLiteral : Obligations.MovvLoadsLiteral := by
  refine ⟨fun dst literal => decode_encode (.movv dst literal), fun s d literal => ?_,
    fun s dst literal hdst => ?_, truncatedFaults .movv⟩
  · rw [exec_of_completes (.movv d literal), commit_write_seq]
  · exact exec_firstRegister_invalid (i := .movv dst literal) rfl hdst

end Sys2Proof.Machine

/-! SUPPORT. The two arithmetic results are the operations of the Words themselves (R112), and what ADD
and SUB answer with register operands. -/

namespace Sys2Proof.Machine

/-- R112: the wrapped sum of the signed values is the sum of the bit patterns. -/
theorem addWords_eq_add (a b : Word) : addWords a b = a + b := by
  unfold addWords wrap
  rw [BitVec.ofInt_add, BitVec.ofInt_toInt, BitVec.ofInt_toInt]

/-- R112: the wrapped difference of the signed values is the difference of the bit patterns. -/
theorem subWords_eq_sub (a b : Word) : subWords a b = a - b := by
  unfold subWords wrap
  rw [Int.sub_eq_add_neg, BitVec.ofInt_add, BitVec.ofInt_neg, BitVec.ofInt_toInt, BitVec.ofInt_toInt,
    ← BitVec.sub_eq_add_neg]

theorem addWords_toNat (a b : Word) : (addWords a b).toNat = (a.toNat + b.toNat) % 2 ^ 32 := by
  rw [addWords_eq_add, BitVec.toNat_add]

theorem subWords_toNat (a b : Word) :
    (subWords a b).toNat = (a.toNat + (2 ^ 32 - b.toNat)) % 2 ^ 32 := by
  rw [subWords_eq_sub, BitVec.toNat_sub']

theorem exec_add_regWord (s : State) (d r : Reg) : exec (.add (regWord d) (regWord r)) s =
    .next { s with
      x := s.x.write d (addWords (s.x.read d) (s.x.read r)), pc := s.pc + 3, outBeat := none } := by
  rw [exec_of_completes (.add d r), commit_write_seq]

theorem exec_sub_regWord (s : State) (d r : Reg) : exec (.sub (regWord d) (regWord r)) s =
    .next { s with
      x := s.x.write d (subWords (s.x.read d) (s.x.read r)), pc := s.pc + 3, outBeat := none } := by
  rw [exec_of_completes (.sub d r), commit_write_seq]

end Sys2Proof.Machine

/-! PROOF. Arithmetic: ADD and SUB (R110 to R112). -/

namespace Sys2Proof.Machine

/-- Settles O16: ADD completes with the write of the wrapped sum, and its register operands are checked
in order. -/
theorem addWritesWrappedSum : Obligations.AddWritesWrappedSum := by
  refine ⟨fun dst src => decode_encode (.add dst src), exec_add_regWord, fun s dst src hdst => ?_,
    fun s d src hsrc => ?_, truncatedFaults .add⟩
  · exact exec_firstRegister_invalid (i := .add dst src) rfl hdst
  · exact exec_secondRegister_invalid (i := .add (regWord d) src) rfl hsrc

/-- Settles O17: SUB completes with the write of the wrapped difference, and its register operands are
checked in order. -/
theorem subWritesWrappedDifference : Obligations.SubWritesWrappedDifference := by
  refine ⟨fun dst src => decode_encode (.sub dst src), exec_sub_regWord, fun s dst src hdst => ?_,
    fun s d src hsrc => ?_, truncatedFaults .sub⟩
  · exact exec_firstRegister_invalid (i := .sub dst src) rfl hdst
  · exact exec_secondRegister_invalid (i := .sub (regWord d) src) rfl hsrc

/-- Settles O18: the destination reads back the wrapped result, whose unsigned value is that of the
operation on bit patterns; neither RUN_STATE nor the fault record is written. -/
theorem arithmeticWrapsUnreported : Obligations.ArithmeticWrapsUnreported := by
  intro s d r
  refine ⟨⟨_, exec_add_regWord s d r, ?_, read_write_same .., rfl, rfl⟩,
    ⟨_, exec_sub_regWord s d r, ?_, read_write_same .., rfl, rfl⟩⟩
  · rw [read_write_same, addWords_toNat]
  · rw [read_write_same, subWords_toNat]

end Sys2Proof.Machine

/-! SUPPORT. What PUSH and POP answer with a register operand, and the fault entries of both in the
spec's own words. -/

namespace Sys2Proof.Machine

section
variable {s : State}

theorem stackFull_eq_false_iff :
    stackFull s = false ↔ s.params.stackDepth ≠ .finite s.stack.length := by
  rw [← Bool.not_eq_true, stackFull_iff]

theorem stackTop_of_append {below : List Word} {v : Word} (h : s.stack = below ++ [v]) :
    stackTop s = some v := by
  rw [stackTop_eq_some_iff, h, List.dropLast_concat]

theorem exec_eq_erroredFrom_of_faults {i : Instr} {code : ErrCode} {sub : ErrSub} {v : Word}
    (h : Faults s i code sub v) : exec i s = .next (erroredFrom s code sub i.opcode.word v) := by
  rw [exec_of_faults h, enterFault_eq_erroredFrom]

theorem exec_push_regWord (r : Reg) (room : s.params.stackDepth ≠ .finite s.stack.length) :
    exec (.push (regWord r)) s =
      .next { s with stack := s.stack ++ [s.x.read r], pc := s.pc + 2, outBeat := none } := by
  rw [exec_of_completes (.push r (stackFull_eq_false_iff.2 room))]
  simp [commit]

theorem exec_pop_regWord (d : Reg) {below : List Word} {v : Word} (h : s.stack = below ++ [v]) :
    exec (.pop (regWord d)) s =
      .next { s with x := s.x.write d v, stack := below, pc := s.pc + 2, outBeat := none } := by
  rw [exec_of_completes (.pop d v (stackTop_of_append h))]
  simp [commit, h]

end

/-! PROOF. The stack: PUSH and POP (R120 to R122). -/

/-- Settles O19: below capacity PUSH completes, at capacity it overflows; its register operand is checked
before either. -/
theorem pushPutsRegisterOnTop : Obligations.PushPutsRegisterOnTop := by
  refine ⟨fun src => decode_encode (.push src), fun s r room => exec_push_regWord r room,
    fun s r full => ?_, fun s src hsrc => ?_, truncatedFaults .push⟩
  · exact exec_eq_erroredFrom_of_faults (.pushFull r ((stackFull_iff s).2 full))
  · exact exec_firstRegister_invalid (i := .push src) rfl hsrc

/-- Settles O20: with a top POP completes, on an empty stack it underflows; its register operand is
checked before either. -/
theorem popTakesTopIntoRegister : Obligations.PopTakesTopIntoRegister := by
  refine ⟨fun dst => decode_encode (.pop dst), fun s d below v h => exec_pop_regWord d h,
    fun s d empty => ?_, fun s dst hdst => ?_, truncatedFaults .pop⟩
  · exact exec_eq_erroredFrom_of_faults (.popEmpty d ((stackTop_eq_none_iff s).2 empty))
  · exact exec_firstRegister_invalid (i := .pop dst) rfl hdst

/-- Settles O21: the entry that PUSH adds is the top that POP takes, over the stack of before. -/
theorem pushThenPopRestores : Obligations.PushThenPopRestores :=
  fun _ r d room => ⟨_, exec_push_regWord r room, fun _ hu => ⟨_, exec_pop_regWord d hu, rfl, rfl⟩⟩

end Sys2Proof.Machine

/-! SUPPORT. What a control transfer answers in the spec's own words, and the return address of a CALL
(R87, R88, R132). -/

namespace Sys2Proof.Machine

section
variable {s : State}

/-- R87: a target below 0 or at or beyond PROG_LEN. -/
theorem not_validTarget {t : Word} (h : t.toInt < 0 ∨ s.progLen ≤ t.toInt) : ¬ ValidTarget s t := by
  rintro ⟨hnonneg, hlt⟩
  omega

/-- R51, R87: every address of a program Word is a valid target, as PROG_LEN has no sign bit. -/
theorem validTarget_of_toNat_lt {t : Word} (hwf : Memory.wf s.program) (h : t.toNat < s.progLen) :
    ValidTarget s t := by
  have hbound : s.progLen ≤ 2147483647 := hwf
  have hint : t.toInt = t.toNat := BitVec.toInt_eq_toNat_of_lt (by omega)
  exact ⟨by omega, by omega⟩

/-- R132: the return address of a CALL that ends within the program does not wrap. -/
theorem returnAddress_toNat (hwf : Memory.wf s.program) (h : s.pc.toNat + 2 ≤ s.progLen) :
    (s.pc + 2).toNat = s.pc.toNat + 2 := by
  have hbound : s.progLen ≤ 2147483647 := hwf
  exact BitVec.toNat_add_of_lt (show s.pc.toNat + 2 < 2 ^ 32 by omega)

/-- R88: an effect that only transfers control, with its frame. -/
theorem commit_next (sel : NextPc) (s : State) :
    commit { next := sel } s = { s with pc := nextPc sel s.pc, outBeat := none } := by
  simp [commit]

theorem exec_call_of_room {addr : Word} (valid : ValidTarget s addr)
    (room : s.params.stackDepth ≠ .finite s.stack.length) :
    exec (.call addr) s =
      .next { s with stack := s.stack ++ [s.pc + 2], pc := addr, outBeat := none } := by
  rw [exec_of_completes (.call addr valid (stackFull_eq_false_iff.2 room))]
  simp [commit]

theorem exec_ret_of_validTop {below : List Word} {t : Word} (h : s.stack = below ++ [t])
    (valid : ValidTarget s t) :
    exec .ret s = .next { s with stack := below, pc := t, outBeat := none } := by
  rw [exec_of_completes (.ret t (stackTop_of_append h) valid)]
  simp [commit, h]

theorem exec_ret_of_invalidTop {below : List Word} {t : Word} (h : s.stack = below ++ [t])
    (invalid : ¬ ValidTarget s t) :
    exec .ret s = .next (erroredFrom s .outOfRange .retTarget Opcode.ret.word t) :=
  exec_eq_erroredFrom_of_faults (.retTarget t (stackTop_of_append h) invalid)

end

/-! PROOF. Control transfer: JP, JL, CALL and RET (R130 to R134). -/

/-- Settles O22: JP completes exactly on a valid target. -/
theorem jpJumpsToTarget : Obligations.JpJumpsToTarget := by
  refine ⟨fun addr => decode_encode (.jp addr), fun s addr hnonneg hlt => ?_,
    fun s addr hbad => ?_, truncatedFaults .jp⟩
  · rw [exec_of_completes (.jp addr ⟨hnonneg, hlt⟩), commit_next, nextPc_target]
  · exact exec_eq_erroredFrom_of_faults (.jpTarget addr (not_validTarget hbad))

/-- Settles O23: only a taken JL looks at its target; its register operands are checked in order before
the comparison. -/
theorem jlJumpsWhenSignedLess : Obligations.JlJumpsWhenSignedLess := by
  refine ⟨fun a b addr => decode_encode (.jl a b addr), fun s a b addr hless hnonneg hlt => ?_,
    fun s a b addr hless hbad => ?_, fun s a b addr hle => ?_, fun s a b addr ha => ?_,
    fun s a b addr hb => ?_, truncatedFaults .jl⟩
  · rw [exec_of_completes (.jlTaken a b addr hless ⟨hnonneg, hlt⟩), commit_next, nextPc_target]
  · exact exec_eq_erroredFrom_of_faults (.jlTarget a b addr hless (not_validTarget hbad))
  · rw [exec_of_completes (.jlNotTaken a b addr (Int.not_lt.2 hle)), commit_next, nextPc_seq]
  · exact exec_firstRegister_invalid (i := .jl a b addr) rfl ha
  · exact exec_secondRegister_invalid (i := .jl (regWord a) b addr) rfl hb

/-- Settles O24: with a valid target CALL completes below capacity and overflows at capacity; the target
is checked before the stack. -/
theorem callPushesReturnAddress : Obligations.CallPushesReturnAddress := by
  refine ⟨fun addr => decode_encode (.call addr),
    fun s addr hnonneg hlt room => exec_call_of_room ⟨hnonneg, hlt⟩ room,
    fun s addr hbad => ?_, fun s addr hnonneg hlt full => ?_, truncatedFaults .call⟩
  · exact exec_eq_erroredFrom_of_faults (.callTarget addr (not_validTarget hbad))
  · exact exec_eq_erroredFrom_of_faults (.callFull addr ⟨hnonneg, hlt⟩ ((stackFull_iff s).2 full))

/-- Settles O25: RET completes exactly on a valid top, and takes the top only then. -/
theorem retJumpsToTopOfStack : Obligations.RetJumpsToTopOfStack := by
  refine ⟨decode_encode .ret,
    fun s below t h hnonneg hlt => exec_ret_of_validTop h ⟨hnonneg, hlt⟩,
    fun s below t h hbad => exec_ret_of_invalidTop h (not_validTarget hbad), fun s empty => ?_⟩
  exact exec_eq_erroredFrom_of_faults (.retEmpty ((stackTop_eq_none_iff s).2 empty))

/-- Settles O26: the entry that CALL adds is the top that RET takes, over the stack of before; as a
target it is valid exactly where it is below PROG_LEN. -/
theorem callThenRetReturns : Obligations.CallThenRetReturns := by
  intro s addr hwf hnonneg hlt room hend
  refine ⟨_, exec_call_of_room ⟨hnonneg, hlt⟩ room, fun u hstack hprog => ?_⟩
  have hret : (s.pc + 2).toNat = s.pc.toNat + 2 := returnAddress_toNat hwf hend
  have hlen : u.progLen = s.progLen := progLen_eq_of_program_eq hprog
  constructor
  · intro hinside
    have hvalid : ValidTarget u (s.pc + 2) := validTarget_of_toNat_lt (hprog ▸ hwf) (by omega)
    exact ⟨_, exec_ret_of_validTop hstack hvalid, hret, rfl⟩
  · intro hlast
    have hinvalid : ¬ ValidTarget u (s.pc + 2) := by
      intro hvalid
      have := validTarget_toNat_lt hvalid
      omega
    have hvalue : s.pc + 2 = BitVec.ofNat 32 s.progLen := by
      rw [← hlast, ← hret, BitVec.ofNat_toNat, BitVec.setWidth_eq]
    rw [← hvalue]
    exact exec_ret_of_invalidTop hstack hinvalid

end Sys2Proof.Machine

/-! SUPPORT. What PRINT and HALT answer, and what a step of a HALTED core answers, in the spec's own
words. -/

namespace Sys2Proof.Machine

section
variable {s : State}

/-- R88, R150: the emitted value is both the new last output and the beat. -/
theorem exec_print_regWord (r : Reg) (s : State) : exec (.print (regWord r)) s =
    .next { s with out := s.out ++ [s.x.read r], outBeat := some (s.x.read r), pc := s.pc + 2 } := by
  rw [exec_of_completes (.print r)]
  simp [commit]

/-- R152: the next-pc select of HALT is HOLD, so only RUN_STATE and the beat are written. -/
theorem exec_halt (s : State) :
    exec .halt s = .next { s with runState := .halted, outBeat := none } := by
  rw [exec_of_completes .halt]
  simp [commit]

theorem ended_of_halted (h : s.runState = .halted) : Ended s := by
  unfold Ended
  rw [h]
  nofun

theorem eq_of_step_ended {t : State} (hrst : s.rst = false) (hend : Ended s) (h : step s = .next t) :
    t = { s with outBeat := none } := by
  rw [step_ended s hrst hend] at h
  cases h
  rfl

end

/-! PROOF. Output and halt: PRINT and HALT (R150, R152). -/

/-- Settles O27: PRINT completes with the value of its register as output and beat; a bad register
operand and a missing one enter a fault, whose frame keeps the Output Sequence. -/
theorem printEmitsRegister : Obligations.PrintEmitsRegister := by
  refine ⟨fun src => decode_encode (.print src), fun s r => exec_print_regWord r s,
    fun s src hsrc => ?_, truncatedFaults .print⟩
  exact exec_firstRegister_invalid (i := .print src) rfl hsrc

/-- Settles O28: HALT only writes RUN_STATE, no other instruction and no fault leads to HALTED, and a
HALTED core that is not reset takes no step. -/
theorem haltEndsTheRun : Obligations.HaltEndsTheRun :=
  ⟨decode_encode .halt, exec_halt, fun _ _ => step_halted_iff,
    fun _ _ hrst hhalted => eq_of_step_ended hrst (ended_of_halted hhalted)⟩

end Sys2Proof.Machine

/-! SUPPORT. What the step does that R160 to R169 speak of: an opcode Word outside the map, and the
record of a step that enters no fault. -/

namespace Sys2Proof.Machine

section
variable {s t : State}

/-- R72: the map leaves out no opcode. -/
theorem mem_opcodeMap (oc : Opcode) : oc ∈ opcodeMap := by
  cases oc <;> decide

/-- R77: a Word is no opcode where it is none of the Words of the map. -/
theorem opcodeOfWord_eq_none_of_notMem {op : Word} (h : op ∉ opcodeMap.map Opcode.word) :
    opcodeOfWord op = none := by
  rw [opcodeOfWord_eq_none_iff]
  rintro oc rfl
  exact h (List.mem_map_of_mem (mem_opcodeMap oc))

/-- R165: the step of a core that takes one ends ERRORED with the frame of the fault entry, or not ERRORED
with the record as before. -/
theorem step_fault_precise (hr : Ready s) (h : step s = .next t) :
    (t.runState = .errored ∧
      ∃ code sub opcode value, code ≠ .none ∧ t = erroredFrom s code sub opcode value) ∨
    (t.runState ≠ .errored ∧ t.err = s.err) := by
  rcases step_ready_next_cases hr h with
    ⟨i, rest, e, -, -, rfl⟩ | ⟨code, sub, op, v, hf, rfl⟩
  · exact .inr ⟨commit_not_errored e hr.running, rfl⟩
  · obtain ⟨hcode, -⟩ := hf.record
    exact .inl ⟨rfl, code, sub, op, v, hcode, enterFault_eq_erroredFrom ..⟩

end

/-! PROOF. Exceptions: which fault a step enters, what the entry writes, and what an ended run holds (R162,
R165, R167, R169). -/

/-- Settles O9: the twelve Words are those of the opcode map, so the Word at pc is no opcode. -/
theorem illegalOpcodeEntersFault : Obligations.IllegalOpcodeEntersFault := by
  intro s op hr hop hnot
  exact step_eq_erroredFrom hr
    (.illegal op _ (drop_of_program_pc hop) (opcodeOfWord_eq_none_of_notMem hnot))

/-- Settles O13: an instruction that completes passes every check, and a step that enters a fault
enters that of the check found first. -/
theorem firstFailingCheckDecidesFault : Obligations.FirstFailingCheckDecidesFault := by
  intro s hr
  rcases step_ready_cases hr with ⟨i, rest, e, hcode, hc, heq⟩ | ⟨code, sub, op, v, hf, -⟩
  · rw [firstFault_of_completes hcode hc]
    exact ⟨nofun, fun _ => ⟨_, heq, commit_not_errored e hr.running⟩⟩
  · rw [firstFault_of_stepFaults hf]
    refine ⟨fun r hrec => ?_, nofun⟩
    cases hrec
    exact step_eq_erroredFrom hr hf

/-- Settles O38: a step ends in the fault entry or leaves the record, by whether it is ERRORED. -/
theorem faultEntryIsPrecise : Obligations.FaultEntryIsPrecise := by
  intro s t hr h
  rcases step_fault_precise hr h with ⟨herr, hentry⟩ | ⟨hne, hkeep⟩
  · exact ⟨fun _ => hentry, fun hne => absurd herr hne⟩
  · exact ⟨fun herr => absurd herr hne, fun _ => hkeep⟩

/-- Settles O41: a core whose run has ended takes no step, and only the beat of an earlier PRINT passes. -/
theorem endedRunStaysUntilReset : Obligations.EndedRunStaysUntilReset :=
  step_ended

end Sys2Proof.Machine

/-! SUPPORT. The start of a run: what it holds, what it depends on, and how `rst` leads to it (R180, R181). -/

namespace Sys2Proof.Machine

section
variable {s t : State}

theorem read_reset_x (r : Reg) : State.reset.x.read r = 0 := by
  cases r <;> rfl

theorem startOfRun_reset : startOfRun State.reset = State.reset := rfl

/-- R183: the start of a run depends only on the Program Store, the input levels and the parameters. -/
theorem startOfRun_congr (hprogram : s.program = t.program) (hrst : s.rst = t.rst)
    (hstop : s.stopReq = t.stopReq) (hparams : s.params = t.params) :
    startOfRun s = startOfRun t := by
  simp only [startOfRun, hprogram, hrst, hstop, hparams]

theorem hostSetRst_assert (s : State) :
    hostSetRst true s = .next (startOfRun { s with rst := true }) := rfl

theorem hostSetRst_release (h : s.rst = true) :
    hostSetRst false s = .next (startOfRun { s with rst := false }) :=
  if_pos h

/-- R183: asserting `rst` forgets all but the Program Store, the parameters and the level of `stop_req`. -/
theorem hostSetRst_assert_congr (hprogram : s.program = t.program) (hparams : s.params = t.params)
    (hstop : s.stopReq = t.stopReq) : hostSetRst true s = hostSetRst true t := by
  rw [hostSetRst_assert, hostSetRst_assert]
  exact congrArg _ (startOfRun_congr hprogram rfl hstop hparams)

end

/-! PROOF. Reset (R180, R181, R183). -/

/-- Settles O43: asserting `rst` gives both states one answer, so what runs from it is the same run. -/
theorem noStateSurvivesReset : Obligations.NoStateSurvivesReset := by
  intro s t hprogram hparams hstop
  have hsame : hostAct (.setRst true) s = hostAct (.setRst true) t :=
    hostSetRst_assert_congr hprogram hparams hstop
  refine ⟨hsame, fun u v n hu hv => ?_⟩
  rw [hsame, hv] at hu
  cases hu
  rfl

/-- Settles O1: `State.reset` is itself the start of a run, whose fields R181 fixes. -/
theorem resetValuesAreStartOfRun : Obligations.ResetValuesAreStartOfRun := by
  intro s t ht
  obtain ⟨s', rfl⟩ : ∃ s', t = startOfRun s' := by
    rcases List.mem_pair.mp ht with rfl | rfl
    · exact ⟨State.reset, startOfRun_reset.symm⟩
    · exact ⟨s, rfl⟩
  exact ⟨read_reset_x, rfl, rfl, rfl, rfl, rfl, rfl, startOfRun_program s⟩

/-- Settles O42: a step under `rst`, asserting it and releasing it each give the start of a run. -/
theorem resetHoldsStartOfRun : Obligations.ResetHoldsStartOfRun :=
  ⟨step_reset, hostSetRst_assert, fun _ hrst => ⟨_, hostSetRst_release hrst, rfl, rfl, rfl, rfl⟩⟩

end Sys2Proof.Machine
